-- ==== Sys2Proof/Word.lean ====
section
/-! DEFINITION. The words of the machine: the nibble of the bus and of a register cell (R7, R10), the byte of a
frame (R10), the 32-bit word of the backup and of the CRC (R50, R217), the bank number (R27). -/

namespace Sys2Proof

/-- A nibble, `n[3:0]` (R10): a register cell, a register address, the data lines `D` (R71). -/
abbrev Nibble := BitVec 4

/-- A byte (R10): the unit of the frame buffers and of the stores. -/
abbrev Byte := BitVec 8

/-- A backup word `nv[i]` (R50), a CRC-32 value (R108). -/
abbrev Word32 := BitVec 32

/-- The number of a bank, 2 bits (R27). -/
abbrev BankNo := BitVec 2

end Sys2Proof
end

