-- ==== Sys2Proof/Config.lean ====
section
/-! DEFINITION. What an implementation fixes: the parameters that rule R9 leaves open "as named parameters the model
takes as arguments", with the constraints the rule (and R289, R335) puts on them, and the status codes' names (R113). The parameters
stand in `State.params` and no step changes them, so a statement about every state is one about every choice of the
parameters (log entry 3). The named constants of rules R7 and R8 are in Machine/Constants.lean. -/

namespace Sys2Proof.Config

/-- `LEN_BYTES` in {1, 2} (R9, D1): the width of the frame's length field. -/
inductive LenBytes where
  /-- the legacy header's length field -/
  | one
  /-- the current generation's -/
  | two
  deriving DecidableEq, Repr

/-- `OPT_POLICY` in {ignore, reject} (R9, D15): what option bits in a command byte do. -/
inductive OptPolicy where
  | ignore
  | reject
  deriving DecidableEq, Repr

/-- `crc32` (R9, D10): "a total function from byte strings to 32-bit words", by name, so that a parameter is plain
data (log entry 12). `crc32` (Machine/Bytes.lean) is the function a name stands for. -/
inductive Crc where
  /-- CRC-32/ISO-HDLC (R108), the default -/
  | isoHdlc
  /-- any other choice: the `k`-th function of a family of which nothing is known -/
  | other (k : Nat)
  deriving DecidableEq, Repr

/-- The functions that `Crc.other` names: free values (log entry 12). -/
opaque otherCrc : Nat → List Byte → Word32

/-- The open parameters of R9. -/
structure Params where
  /-- `LEN_BYTES` (D1) -/
  lenBytes : LenBytes
  /-- `PAYLOAD_MAX`, bytes (D11) -/
  payloadMax : Nat
  /-- `CHUNK_MAX`, bytes (D11) -/
  chunkMax : Nat
  /-- `CFG_SIZE`, bytes (D25) -/
  cfgSize : Nat
  /-- `MAP_SIZE`, bytes (D25) -/
  mapSize : Nat
  /-- `CONS_IN_CAP`, bytes (D24) -/
  consInCap : Nat
  /-- `CONS_OUT_CAP`, bytes (D24) -/
  consOutCap : Nat
  /-- `READ_POLL_CAP` (D34) -/
  readPollCap : Nat
  /-- `WAKEUP_PERIOD_MS` (D31); no rule reads it (R440, log entry 16) -/
  wakeupPeriodMs : Nat
  /-- `crc32` (D10) -/
  crc : Crc
  /-- `OPT_POLICY` (D15) -/
  optPolicy : OptPolicy
  /-- `ID_VERSION[0]` (D22) -/
  idVersion0 : BitVec 16
  /-- `ID_VERSION[1]` (D22) -/
  idVersion1 : BitVec 16
  /-- `ID_DATE[4]` (D22) -/
  idDate : Vector Byte 4
  /-- `ID_TIME[4]` (D22) -/
  idTime : Vector Byte 4
  /-- the characters of `ID_SERIAL[24]`, before the padding (D22) -/
  idSerial : List Byte
  /-- `ID_FEATURES` (D22) -/
  idFeatures : BitVec 16
  /-- the characters of `BOARD_NAME[16]`, before the padding (D22) -/
  boardName : List Byte
  /-- `env_poll_input` (R289, U17) as a table: a payload listed here is answered (OK, data), any other (NODATA, empty)
  (log entry 11) -/
  pollTable : List (List Byte × List Byte)
  /-- the host's `HOST_POLL_MAX` (D43) -/
  hostPollMax : Nat
  /-- the host's `HOST_POLL_DELAY`, in ms (D43) -/
  hostPollDelay : Nat
  deriving DecidableEq, Repr

/-- `LEN_BYTES` as a number. -/
def Params.lenWidth (p : Params) : Nat :=
  match p.lenBytes with
  | .one => 1
  | .two => 2

/-- The constraints of R9 on what the block reads (and of R289 on `env_poll_input`). -/
abbrev Params.blockWf (p : Params) : Prop :=
  88 ≤ p.payloadMax ∧ p.payloadMax ≤ 2 ^ (8 * p.lenWidth) - 1 ∧
  1 ≤ p.chunkMax ∧ p.chunkMax ≤ p.payloadMax ∧
  p.cfgSize ≤ 65535 ∧ p.mapSize ≤ 65535 ∧
  0 < p.readPollCap ∧ 0 < p.wakeupPeriodMs ∧ p.wakeupPeriodMs ≤ 1000 ∧
  p.idSerial.length ≤ 24 ∧ p.boardName.length ≤ 16 ∧
  ∀ e ∈ p.pollTable, e.2.length ≤ p.chunkMax

/-- The constraint of R335 (D43) on the host's two: the whole wait, in ms, "is between about 200 ms and 1250 ms". That
"about 200" is 200 exactly is the model's choice (DESIGN CHOICE, log entry 28). -/
abbrev Params.hostWf (p : Params) : Prop :=
  200 ≤ p.hostPollMax * p.hostPollDelay ∧ p.hostPollMax * p.hostPollDelay ≤ 1250

/-- The constraints of R9, R289 and R335. -/
abbrev Params.wf (p : Params) : Prop := p.blockWf ∧ p.hostWf

/-- The status codes by name (R113), in the order the source lists them. -/
inductive Status where
  | ok | fail | unkcmd | badarg | badlen | nodata | locked | timeout | badmagic | replylen | replycrc | crc
  deriving DecidableEq, Repr

end Sys2Proof.Config
end

