-- ==== Sys2Proof/Machine/Constants.lean ====
section
/-! DEFINITION. The named constants of rules R7 and R8, the write-mask table (R24), the status code numbers (R113),
and the sizes derived from the parameters (R9). Also the values that `State.reset` takes where the spec states
none (log entries 3 to 6). -/

namespace Sys2Proof.Machine

open Sys2Proof.Config

/-- `MAGIC[0]` (R7). -/
def magic0 : Byte := 0xCD#8

/-- `MAGIC[1]` (R7). -/
def magic1 : Byte := 0x68#8

/-- `CRC_LEN` (R7). -/
def crcLen : Nat := 4

/-- `IN_TIMEOUT_MS` (R7). -/
def inTimeoutMs : Nat := 1000

/-- `OUT_TIMEOUT_MS` (R7). -/
def outTimeoutMs : Nat := 1000

/-- `PROTOCOL_REV` (R7). -/
def protocolRev : BitVec 16 := 0x0001#16

/-- `ID_LEN` (R7). -/
def idLen : Nat := 88

/-- `TESTPATT` (R7, R278). -/
def testPattern : List Byte :=
  [0xAA, 0x55, 0xCC, 0x33, 0xEE, 0x11, 0xFF, 0x00, 0x01, 0x02, 0x04, 0x08,
   0x10, 0x20, 0x40, 0x80, 0xFE, 0xFD, 0xFB, 0xF7, 0xEF, 0xDF, 0xBF, 0x7F]

/-- `MSG_BANK` (R7). -/
def msgBank : BankNo := 1#2

/-- `MSG_HI_ADDR` (R8, D2). -/
def msgHiAddr : Nibble := 0x0#4

/-- `MSG_LO_ADDR` (R8, D2). -/
def msgLoAddr : Nibble := 0x1#4

/-- `MODE_ADDR` (R8). -/
def modeAddr : Nibble := 0xD#4

/-- `EPOCH` (R8, D29). -/
def epoch : Nat := 0

/-- `NV_COOKIE` (R8, D32). -/
def nvCookie : Word32 := 0x52503543#32

/-- `HOST_RETRY_MAX` (R8, D43). -/
def hostRetryMax : Nat := 10

/-- The rows of the write-mask table (R24), addresses 0x0 to 0xF in order. -/
def wmaskRow (bank : BankNo) : List Nibble :=
  match bank.toNat with
  | 0 => [0xF, 0x7, 0xF, 0x7, 0xF, 0x3, 0x7, 0xF, 0x3, 0xF, 0x1, 0xF, 0xF, 0xF, 0x0, 0x0]
  | 1 => [0x0, 0x0, 0xF, 0x7, 0xF, 0x3, 0x7, 0xF, 0x3, 0x0, 0x1, 0x3, 0x0, 0xF, 0x0, 0x0]
  | _ => [0xF, 0xF, 0xF, 0xF, 0xF, 0xF, 0xF, 0xF, 0xF, 0xF, 0xF, 0xF, 0xF, 0xF, 0x0, 0x0]

/-- `wmask[b][a]` (R24). -/
def wmask (bank : BankNo) (a : Nibble) : Nibble := (wmaskRow bank).getD a.toNat 0#4

/-- The number of a status code (R113, D9). -/
def statusCode : Status → Byte
  | .ok => 0x00#8
  | .fail => 0x01#8
  | .unkcmd => 0x02#8
  | .badarg => 0x03#8
  | .badlen => 0x04#8
  | .nodata => 0x05#8
  | .locked => 0x06#8
  | .timeout => 0x07#8
  | .badmagic => 0x08#8
  | .replylen => 0x09#8
  | .replycrc => 0x0A#8
  | .crc => 0x0B#8

/-- `HDR_LEN = 3 + LEN_BYTES` (R9). -/
def hdrLen (p : Params) : Nat := 3 + p.lenWidth

/-- `FRAME_OVERHEAD = HDR_LEN + CRC_LEN` (R9). -/
def frameOverhead (p : Params) : Nat := hdrLen p + crcLen

/-- `IN_BUF_SIZE = OUT_BUF_SIZE = FRAME_OVERHEAD + PAYLOAD_MAX` (R9). -/
def bufSize (p : Params) : Nat := frameOverhead p + p.payloadMax

/-- What a byte of a buffer or store that nothing has written reads as. DESIGN CHOICE (log entry 7): the spec leaves
the buffers unspecified (U8) and makes the stores' contents an argument (U14). Unsafe. -/
def unlistedByte : Byte := 0#8

/-- The parameters of `State.reset`: the defaults and suggestions of R9; the others, for which R9 suggests nothing,
are DESIGN CHOICE (log entry 3). -/
def defaultParams : Params where
  lenBytes := .two
  payloadMax := 256
  chunkMax := 256
  cfgSize := 256
  mapSize := 256
  consInCap := 256
  consOutCap := 256
  readPollCap := 1000
  wakeupPeriodMs := 500
  crc := .isoHdlc
  optPolicy := .ignore
  idVersion0 := 0
  idVersion1 := 0
  idDate := #v[0, 0, 0, 0]
  idTime := #v[0, 0, 0, 0]
  idSerial := []
  idFeatures := 0
  boardName := []
  pollTable := []
  hostPollMax := 125
  hostPollDelay := 10

/-- The bank after reset (R56, R411) with the hardware clock of log entry 4 and no valid backup: `MODE` 0x8 in every
bank, `H24` 1, the digits of 01.01.00 00:00:00, `LEAP` 0. -/
def resetBank : Vector Nibble 64 :=
  #v[0, 0, 0, 0, 0, 0, 0, 1, 0, 1, 0, 0, 0, 8, 0, 0,
     0, 0, 0, 0, 0, 0, 0, 0, 0, 0, 1, 0, 0, 8, 0, 0,
     0, 0, 0, 0, 0, 0, 0, 0, 0, 0, 0, 0, 0, 8, 0, 0,
     0, 0, 0, 0, 0, 0, 0, 0, 0, 0, 0, 0, 0, 8, 0, 0]

end Sys2Proof.Machine
end

