-- ==== Sys2Proof/Machine/Bytes.lean ====
section
/-! DEFINITION. The order of nibbles and bytes (R10, R75, R109) and the CRC-32 function (R108). -/

namespace Sys2Proof.Machine

open Sys2Proof.Config

/-- `hi(B) = B[7:4]` (R10). -/
def hiNibble (b : Byte) : Nibble := b.extractLsb' 4 4

/-- `lo(B) = B[3:0]` (R10). -/
def loNibble (b : Byte) : Nibble := b.extractLsb' 0 4

/-- `h ∥ l`, the byte whose high nibble is `h` (R109): `16 * h + l`. -/
def byteOf (h l : Nibble) : Byte := h ++ l

/-- `be(bytes)`: the unsigned integer whose most significant byte comes first (R10). -/
def beNat (bytes : List Byte) : Nat := bytes.foldl (fun acc b => 256 * acc + b.toNat) 0

/-- The `n` bytes of `v`, most significant first, modulo `2^(8n)`: `BE16`, `BE32`, `BE64`, `BE_LEN` (R10). -/
def beBytes : Nat → Nat → List Byte
  | 0, _ => []
  | n + 1, v => BitVec.ofNat 8 (v / 256 ^ n) :: beBytes n v

/-- One bit of the reflected CRC-32 division: polynomial 0xEDB88320 (R108). -/
def crcBit (c : Word32) : Word32 := if c.getLsbD 0 then (c >>> 1) ^^^ 0xEDB88320#32 else c >>> 1

/-- One byte of the message taken into the CRC register. -/
def crcByte (c : Word32) (b : Byte) : Word32 := Nat.repeat crcBit 8 (c ^^^ b.setWidth 32)

/-- `k n`. Lean's kernel evaluates `n` before it goes on, which keeps a long CRC shallow for it
(`evalFirst_eq`, Laws/Bytes.lean: it is `k n`). -/
def evalFirst {α : Type} (n : Nat) (k : Nat → α) : α :=
  match n with
  | 0 => k 0
  | m + 1 => k (m + 1)

/-- The bytes of a message taken into the CRC register in order: `foldl crcByte` (`crcFold_eq_foldl`). -/
def crcFold : Word32 → List Byte → Word32
  | c, [] => c
  | c, b :: bs => evalFirst (crcByte c b).toNat (fun n => crcFold (BitVec.ofNat 32 n) bs)

/-- CRC-32/ISO-HDLC (R108, D10, G7): initial value and final exclusive-or 0xFFFFFFFF. -/
def crcIsoHdlc (bytes : List Byte) : Word32 := crcFold 0xFFFFFFFF#32 bytes ^^^ 0xFFFFFFFF#32

/-- `crc32`, the parameter of R9 (R108, R397, D10; log entry 12). -/
def crc32 (p : Params) (bytes : List Byte) : Word32 :=
  match p.crc with
  | .isoHdlc => crcIsoHdlc bytes
  | .other k => otherCrc k bytes

/-- A string of characters padded with 0x00 to `n` bytes (R275). -/
def padTo (n : Nat) (bytes : List Byte) : List Byte := bytes.take n ++ List.replicate (n - bytes.length) 0#8

/-- A frame (R104, R105): magic, the `CMD` or `STATUS` byte, the length, the payload, and the CRC-32 of all but the
magic. `n` is the value of the length field. -/
def frameBytes (p : Params) (first : Byte) (n : Nat) (payload : List Byte) : List Byte :=
  let body := first :: (beBytes p.lenWidth n ++ payload)
  [magic0, magic1] ++ body ++ beBytes crcLen (crc32 p body).toNat

end Sys2Proof.Machine
end

