-- ==== Sys2Proof/Machine/State.lean ====
section
/-! DEFINITION. The state of the machine as plain data: all of rule R20 (the block and its collaborators), the
host agent's calls (R330), the parameters of R9 and the agents' steps still to be taken (R12); the reasons a
step can stop; the state after reset (R56). INVENTORY.md lists each field with its rule and its reset value. -/

namespace Sys2Proof.Machine

open Sys2Proof.Config

/-- A byte space (R70: `in_buf`, `out_buf`, `cfg`, `map`), as the pairs (address, byte) that differ from what an
unlisted address reads as, addresses strictly rising (`Memory.wf`, Machine/Memory.lean). -/
abbrev Memory := List Host.Cell

/-- Why the machine stops with a fault: never. R374: "In the model no step of the block faults and no reachable
state is stuck". The type has no constructor; that is neither safe nor unsafe, it is the rule. -/
inductive Fault where
  deriving DecidableEq, Repr

/-- Why an instruction is refused. -/
inductive Refusal where
  /-- Raised by an arm of `exec` whose instruction has no meaning yet; no arm raises it. Safe. -/
  | notModelled (mnemonic : String)
  deriving DecidableEq, Repr

/-- `in_state` (R42). -/
inductive InState where
  | idle
  | accumulating
  | headerKnown
  | queuedSlow
  deriving DecidableEq, Repr

/-- The inbound assembly state (R20 group 3). -/
structure Inbound where
  /-- `in_hi` (R39) -/
  hi : Nibble
  /-- `in_buf` (R40) -/
  buf : Memory
  /-- `in_pos` (R41) -/
  pos : Nat
  /-- `in_state` (R42) -/
  state : InState
  /-- `in_len` (R43) -/
  len : Nat
  /-- `in_expected` (R43) -/
  expected : Nat
  /-- `in_deadline` (R44), ms -/
  deadline : Nat
  deriving DecidableEq, Repr

/-- The outbound reply state (R20 group 4). -/
structure Outbound where
  /-- `out_buf` (R45) -/
  buf : Memory
  /-- `out_len` (R45) -/
  len : Nat
  /-- `out_pos` (R46), nibbles -/
  pos : Nat
  /-- `out_active` (R46) -/
  active : Bool
  /-- `out_deadline` (R46), ms -/
  deadline : Nat
  deriving DecidableEq, Repr

/-- A date and time of the hardware clock (R49): the seven fields that a commit writes (R206). -/
structure DateTime where
  sec : Nat
  min : Nat
  hour : Nat
  wday : Nat
  day : Nat
  month : Nat
  year : Nat
  deriving DecidableEq, Repr

/-- The hardware clock `hw` (R49). -/
structure HwClock where
  time : DateTime
  /-- `hw.wp`, 1 outside a commit -/
  wp : Bool
  deriving DecidableEq, Repr

/-- A deferred diagnostic (R53, R252): the bytes received, and expected if known. -/
structure DiagRecord where
  received : Nat
  expected : Option Nat
  deriving DecidableEq, Repr

/-- The part of a bus cycle's timing that a host can choose or suffer (R80, U6): for how many polls of the block
`EN_n` stays low, and the level that undriven data lines show. Free values: nothing constrains them (log entry 9). -/
structure BusTiming where
  hold : Nat
  undriven : Nibble
  deriving DecidableEq, Repr

/-- The data lines in the last bus cycle (R71, R72, R80). -/
structure BusLines where
  /-- the timing of the cycle -/
  timing : BusTiming
  /-- the nibble that the block drove onto `D`, none in a write -/
  driven : Option Nibble
  /-- the nibble that the host sampled from `D`, none in a write -/
  sampled : Option Nibble
  deriving DecidableEq, Repr

/-- Where a call of `send_cmd` or `send_cmd_retry` stands (R331 to R341): its next bus cycle, or none. -/
inductive HostPhase where
  /-- the call has returned -/
  | returned
  /-- a try has failed and the next has not started (R341) -/
  | retry
  /-- step 1a: `RD 0xD -> m` (R332) -/
  | readMode
  /-- step 1a: `WR 0xD, (m & 0xC) | 1` (R332) -/
  | selectBank
  /-- step 2: `WR 0x0, hi(B)` of the next byte (R333, R334) -/
  | putHi
  /-- step 2: `WR 0x1, lo(B)` of the same byte -/
  | putLo
  /-- step 3: `RD 0x0`, awaiting 0xC (R335) -/
  | poll
  /-- step 4: `RD 0x1`, must be 0xD (R336) -/
  | magic2
  /-- step 4: `RD 0x0`, must be 0x6 -/
  | magic3
  /-- step 4: `RD 0x1`, must be 0x8 -/
  | magic4
  /-- step 5: `RD 0x0`, the high nibble of the next byte (R337) -/
  | getHi
  /-- step 5: `RD 0x1`, its low nibble -/
  | getLo
  /-- before the return: `WR 0xD, m` (R332) -/
  | restoreMode
  deriving DecidableEq, Repr

/-- What `send_cmd` returns (R330): the status code and `replylen`. -/
structure HostResult where
  status : Byte
  replyLen : Nat
  deriving DecidableEq, Repr

/-- HostCommandContext (R330): the state of one call of `send_cmd` or `send_cmd_retry`. -/
structure HostCall where
  phase : HostPhase
  cmd : Byte
  arg : List Byte
  replyMax : Nat
  /-- how many more tries `send_cmd_retry` may make after this one (R341) -/
  triesLeft : Nat
  /-- `m` (R332) -/
  savedMode : Nibble
  /-- the bytes of the request not yet sent (R334) -/
  toSend : List Byte
  /-- polls not yet made (R335) -/
  pollsLeft : Nat
  /-- the host's time at which the wait of `HOST_POLL_DELAY` ends (R335), ms -/
  waitUntil : Nat
  /-- the high nibble `h` of `get_byte` (R333) -/
  rxHi : Nibble
  /-- the bytes received after the reply's magic (R337) -/
  received : List Byte
  /-- `reply`, truncated to `replymax` (R337) -/
  reply : List Byte
  result : Option HostResult
  deriving DecidableEq, Repr

/-- The host agent (R330, R402): its calls in the order they were made, and what they share. -/
structure HostAgent where
  /-- the host's local interrupt sources are enabled (R331) -/
  irqEnabled : Bool
  /-- the host's own time, by which it counts `HOST_POLL_DELAY` (R335; it cannot read `now`, R390), ms -/
  clock : Nat
  /-- the calls made since reset: one at a time for a host that keeps to R330, more for one that does not (R343) -/
  calls : List HostCall
  deriving DecidableEq, Repr

/-- A bus cycle that the host issues (R72): the triple (`dir`, `a`, `d`), with its timing. -/
structure BusCycle where
  /-- `dir`: true is `WRITE` -/
  write : Bool
  a : Nibble
  d : Nibble
  timing : BusTiming
  deriving DecidableEq, Repr

/-- What the spec leaves unspecified at reset (R56, U8, U14, U15), supplied by the environment with each boot. -/
structure BootValues where
  now : Nat
  inBuf : List Byte
  inLen : Nat
  inExpected : Nat
  inDeadline : Nat
  outBuf : List Byte
  outDeadline : Nat
  cfg : List Byte
  map : List Byte
  deriving DecidableEq, Repr

/-- A step of an agent (R12). -/
inductive Event where
  /-- HOST issues a bus cycle and BUS_ISR serves it (R72, R140, R141) -/
  | bus (c : BusCycle)
  /-- WAKEUP_ISR runs (R211) -/
  | wakeup
  /-- MAIN.slow_dispatch (R251) -/
  | slowDispatch
  /-- MAIN.sync_to_hw (R207) -/
  | syncToHw
  /-- MAIN.in_timeout (R252) -/
  | inTimeout
  /-- MAIN.out_timeout (R314) -/
  | outTimeout
  /-- HWRTC.tick (R213) -/
  | hwTick
  /-- TICK: `now` by `ms`, `uptime_us` by `us` (R47) -/
  | tick (ms us : Nat)
  /-- CONSOLE appends to `cons_out` (R399) -/
  | consoleOut (bytes : List Byte)
  /-- CONSOLE removes from `cons_in` (R399) -/
  | consoleIn (n : Nat)
  /-- HOST calls `send_cmd`, or `send_cmd_retry` (R330, R341, R343) -/
  | hostCall (cmd : Byte) (arg : List Byte) (replyMax : Nat) (retry : Bool)
  /-- HOST takes the next step of its call number `k` (R331 to R341) -/
  | hostStep (k : Nat) (t : BusTiming)
  /-- the host's own time advances by `ms` (R335) -/
  | hostTick (ms : Nat)
  /-- the MCU stops: power lost or MCU reset (R404, R410) -/
  | mcuReset
  /-- BOOT (R411) -/
  | boot (v : BootValues)
  deriving DecidableEq, Repr

/-- The state of the machine. -/
structure State where
  /-- the parameters of R9; no step changes them -/
  params : Params
  /-- `banks` (R21): `banks[b][a]` is cell `16 * b + a`; read and written through Machine/Ops.lean only -/
  bank : Vector Nibble 64
  /-- `cur_bank` (R27) -/
  curBank : BankNo
  /-- `timer_enabled` (R28) -/
  timerEnabled : Bool
  /-- `time_dirty` (R29) -/
  timeDirty : Bool
  /-- `ram_dirty` (R30) -/
  ramDirty : Bool
  /-- the inbound assembly state (R39 to R44) -/
  inb : Inbound
  /-- the outbound reply state (R45, R46) -/
  outb : Outbound
  /-- `last_sec` (R48) -/
  lastSec : Nat
  /-- `nv` (R50) -/
  nv : Vector Word32 7
  /-- `hw` (R49) -/
  hw : HwClock
  /-- `now` (R47), ms -/
  now : Nat
  /-- `uptime_us` (R47) -/
  uptimeUs : BitVec 64
  /-- `cons_out` (R51), oldest first -/
  consOut : List Byte
  /-- `cons_in` (R51), oldest first -/
  consIn : List Byte
  /-- `cfg` (R52) -/
  cfg : Memory
  /-- `map` (R52) -/
  map : Memory
  /-- `diag` (R53), oldest first -/
  diag : List DiagRecord
  /-- the data lines in the last bus cycle (R72, R80) -/
  bus : BusLines
  /-- the bus-enable and the RTC wakeup interrupts are enabled and the main loop runs: BOOT has ended (R380, R381, R411) -/
  handlersEnabled : Bool
  /-- the host agent (R330) -/
  host : HostAgent
  /-- the agents' steps still to be taken, oldest first (R12, R383; log entry 1) -/
  events : List Event
  deriving DecidableEq, Repr

/-- The state after reset, that is after BOOT (R56, R411, U18). Where R56 says unspecified, "any value" or not
reset, the values are DESIGN CHOICE (log entries 3 to 6, 9, 18). -/
def State.reset : State where
  params := defaultParams
  bank := resetBank
  curBank := 0
  timerEnabled := true
  timeDirty := false
  ramDirty := false
  inb := { hi := 0, buf := [], pos := 0, state := .idle, len := 0, expected := 0, deadline := 0 }
  outb := { buf := [], len := 0, pos := 0, active := false, deadline := 0 }
  lastSec := 0
  nv := #v[0, 0, 0, 0, 0, 0, 0]
  hw := { time := { sec := 0, min := 0, hour := 0, wday := 0, day := 1, month := 1, year := 0 }, wp := true }
  now := 0
  uptimeUs := 0
  consOut := []
  consIn := []
  cfg := []
  map := []
  diag := []
  bus := { timing := { hold := 0, undriven := 0 }, driven := none, sampled := none }
  handlersEnabled := true
  host := { irqEnabled := true, clock := 0, calls := [] }
  events := []

end Sys2Proof.Machine
end

