-- ==== Sys2Proof/Machine/Memory.lean ====
section
/-! DEFINITION. The byte spaces of rule R70 (`in_buf`, `out_buf`, `cfg`, `map`): a list of (address, byte) pairs in
one canonical form, read and written through the operations of this file only. -/

namespace Sys2Proof.Machine

/-- The canonical form: addresses strictly rising, no entry equal to what an unlisted address reads as. -/
abbrev Memory.wf (m : Memory) : Prop :=
  m.Pairwise (fun c c' => c.1 < c'.1) ∧ ∀ c ∈ m, c.2 ≠ unlistedByte

/-- The byte at an address. -/
def Memory.read : Memory → Nat → Byte
  | [], _ => unlistedByte
  | c :: m, a => if c.1 = a then c.2 else Memory.read m a

/-- An entry put before the first entry of a greater address. -/
def Memory.insertCell : Memory → Host.Cell → Memory
  | [], c => [c]
  | c' :: m, c => if c.1 < c'.1 then c :: c' :: m else c' :: Memory.insertCell m c

/-- One byte written; the canonical form is kept (`Memory.write_wf`). -/
def Memory.write (m : Memory) (a : Nat) (v : Byte) : Memory :=
  let rest := m.filter (fun c => c.1 != a)
  if v = unlistedByte then rest else Memory.insertCell rest (a, v)

/-- The `n` bytes from address `a` on: `s[a .. a+n)` (R11). -/
def Memory.readBytes (m : Memory) : Nat → Nat → List Byte
  | _, 0 => []
  | a, n + 1 => Memory.read m a :: Memory.readBytes m (a + 1) n

/-- Bytes written from address `a` on. -/
def Memory.writeBytes (m : Memory) : Nat → List Byte → Memory
  | _, [] => m
  | a, v :: vs => Memory.writeBytes (Memory.write m a v) (a + 1) vs

/-- The space that holds `bytes` from address 0 on. -/
def Memory.ofBytes (bytes : List Byte) : Memory := Memory.writeBytes [] 0 bytes

end Sys2Proof.Machine
end

