-- ==== Sys2Proof/Machine/Ops.lean ====
section
/-! DEFINITION. The named operations over the register bank, the reply buffer and the assembler's cursor that the
meanings share. The block has no trap (R11, R360): what takes the place of an exception is `reply`, which records a
status code and transfers no control; a handler's return restores nothing (R385). -/

namespace Sys2Proof.Machine

open Sys2Proof.Config

/-- Where `banks[b][a]` stands in `State.bank` (R21). -/
def cellIndex (b : BankNo) (a : Nibble) : Fin 64 :=
  ⟨16 * b.toNat + a.toNat, by have := b.isLt; have := a.isLt; omega⟩

/-- `banks[b][a]` (R11). -/
def State.cell (s : State) (b : BankNo) (a : Nibble) : Nibble := s.bank.get (cellIndex b a)

/-- `banks[b][a] <- v` (R11). -/
def State.setCell (s : State) (b : BankNo) (a v : Nibble) : State :=
  { s with bank := s.bank.set (cellIndex b a).val v (cellIndex b a).isLt }

/-- `banks[b][a] <- d & wmask[b][a]` (R24). -/
def storeMasked (b : BankNo) (a d : Nibble) (s : State) : State := s.setCell b a (d &&& wmask b a)

/-- The read of a register cell as the bus sees it (R80, R140): the block drives the cell's value at the falling edge;
the host samples it, or, when it holds the cycle for more than `READ_POLL_CAP` polls, the undriven lines (U6). -/
def driveRead (v : Nibble) (s : State) : State :=
  { s with
    bus :=
      { s.bus with
        driven := some v
        sampled := some (if s.bus.timing.hold ≤ s.params.readPollCap then v else s.bus.timing.undriven) } }

/-- The two channel cells (R37). -/
def setChannel (hi lo : Nibble) (s : State) : State :=
  (s.setCell msgBank msgHiAddr hi).setCell msgBank msgLoAddr lo

/-- `out_load()` (R312): the cells take the nibbles of the byte at `out_pos / 2`. -/
def outLoad (s : State) : State :=
  let b := Memory.read s.outb.buf (s.outb.pos / 2)
  setChannel (hiNibble b) (loNibble b) s

/-- `out_finish()` (R313): the reply ends and the cells read 0. -/
def outFinish (s : State) : State :=
  setChannel 0#4 0#4 { s with outb := { s.outb with active := false, pos := 0, len := 0 } }

/-- `msg_reply(status, data1, len1, data2, len2)` (R311). -/
def msgReply (st : Status) (data1 : List Byte) (len1 : Nat) (data2 : List Byte) (len2 : Nat) (s : State) : State :=
  let n := len1 + len2
  let frame := frameBytes s.params (statusCode st) n (data1.take len1 ++ data2.take len2)
  outLoad
    { s with
      outb :=
        { buf := Memory.writeBytes s.outb.buf 0 frame
          len := frameOverhead s.params + n
          pos := 0
          active := true
          deadline := s.now + outTimeoutMs } }

/-- `reply(status, data)` (R271): the block's form of raising a condition (R11). -/
def reply (st : Status) (data : List Byte) (s : State) : State := msgReply st data data.length [] 0 s

/-- `clear_inbound()` (R250). -/
def clearInbound (s : State) : State := { s with inb := { s.inb with pos := 0, state := .idle } }

/-- `alarm_clear()` (R179). -/
def alarmClear (s : State) : State :=
  { ([0x2#4, 0x3#4, 0x4#4, 0x5#4, 0x6#4, 0x7#4, 0x8#4].foldl (fun t a => t.setCell 1#2 a 0#4) s) with timeDirty := true }

/-- `proto_reset()` (R180). -/
def protoReset (s : State) : State :=
  setChannel 0#4 0#4
    { s with
      inb := { s.inb with hi := 0, pos := 0, state := .idle }
      outb := { s.outb with active := false, pos := 0, len := 0 } }

/-- The step's continuation after a step that may have stopped. -/
def andThen (o : Host.Outcome State Fault Refusal) (f : State → State) : Host.Outcome State Fault Refusal :=
  match o with
  | .next s => .next (f s)
  | .fault r => .fault r
  | .refused r => .refused r

end Sys2Proof.Machine
end

