-- ==== Sys2Proof/Machine/Operands.lean ====
section
/-! DEFINITION. The operands of the level-2 operations: the fields of the request frame in `in_buf` (R104, R107,
R270) and the fields of the payload (R285, R286). The operands of level 1 are the fields of the decode word. -/

namespace Sys2Proof.Machine

/-- The `CMD` byte, `in_buf[2]` (R104). -/
def cmdByte (s : State) : Byte := Memory.read s.inb.buf 2

/-- The length field, `be(in_buf[3 .. 3+LEN_BYTES))` (R107). -/
def lenField (s : State) : Nat := beNat (Memory.readBytes s.inb.buf 3 s.params.lenWidth)

/-- `P`, `in_buf[HDR_LEN .. HDR_LEN + in_len)` (R270). -/
def payload (s : State) : List Byte := Memory.readBytes s.inb.buf (hdrLen s.params) s.inb.len

/-- What the CRC covers, `in_buf[2 .. HDR_LEN + in_len)` (R108). -/
def crcRange (s : State) : List Byte := Memory.readBytes s.inb.buf 2 (hdrLen s.params - 2 + s.inb.len)

/-- The trailer, `be(in_buf[HDR_LEN + in_len .. HDR_LEN + in_len + 4))` (R108). -/
def trailer (s : State) : Nat := beNat (Memory.readBytes s.inb.buf (hdrLen s.params + s.inb.len) crcLen)

/-- The operand `off` of SET and GET, `be(P[0..2))` (R285, R286). -/
def offsetOf (p : List Byte) : Nat := beNat (p.take 2)

/-- The operand `data` of SET, `P[2..len(P))` (R285). -/
def dataOf (p : List Byte) : List Byte := p.drop 2

/-- The operand `cnt` of GET, `be(P[2..4))` (R286). -/
def countOf (p : List Byte) : Nat := beNat ((p.drop 2).take 2)

end Sys2Proof.Machine
end

