-- ==== Sys2Proof/Machine/Flags.lean ====
section
/-! DEFINITION. The flags: the dirty flags (R29, R30), the mode flags (R27, R28, R32), and the tests the dispatcher
makes (R248, R249). -/

namespace Sys2Proof.Machine

open Sys2Proof.Config

/-- A host write to a cell of bank 0 or 1 sets `time_dirty`, of bank 2 or 3 `ram_dirty` (R141). -/
def markDirty (b : BankNo) (s : State) : State :=
  if b = 0#2 ∨ b = 1#2 then { s with timeDirty := true } else { s with ramDirty := true }

/-- `time_dirty <- 0; ram_dirty <- 0` (R207). -/
def clearDirty (s : State) : State := { s with timeDirty := false, ramDirty := false }

/-- `MODE_BANK`, bits 1:0 of `MODE` (R8, R32). -/
def modeBank (d : Nibble) : BankNo := d.extractLsb' 0 2

/-- `MODE_TIMER_EN`, bit 3 of `MODE` (R8, R32). -/
def modeTimerEn (d : Nibble) : Bool := d.getLsbD 3

/-- `wr_mode(d)` (R176): the nibble into the four `MODE` cells, the bank and the timer enable from it. -/
def setMode (d : Nibble) (s : State) : State :=
  { ([0#2, 1#2, 2#2, 3#2].foldl (fun t b => t.setCell b modeAddr d) s) with
    curBank := modeBank d
    timerEnabled := modeTimerEn d }

/-- `crc_ok()` (R248). -/
def crcOk (s : State) : Bool :=
  decide (s.inb.len ≤ s.params.payloadMax) && trailer s == (crc32 s.params (crcRange s)).toNat

/-- `opt_ok()` (R249). -/
def optOk (s : State) : Bool :=
  match s.params.optPolicy with
  | .ignore => true
  | .reject => cmdByte s &&& 0xC0#8 == 0#8

/-- `has_elapsed(t)`, `now > t` (R47). -/
def hasElapsed (s : State) (t : Nat) : Bool := decide (t < s.now)

end Sys2Proof.Machine
end

