-- ==== Sys2Proof/Machine/Sync.lean ====
section
/-! DEFINITION. The wall-clock synchronizer, the calendar, the hardware clock's step and the NV backup (R200 to
R217). -/

namespace Sys2Proof.Machine

/-- `bcd2(t, u)` (R201): `none` is `invalid`. -/
def bcd2 (t u : Nibble) : Option Nat := if t.toNat ≤ 9 ∧ u.toNat ≤ 9 then some (10 * t.toNat + u.toNat) else none

/-- `(year - EPOCH) mod 4`, the non-negative remainder (R36, R217): the value of `LEAP`. -/
def leapCounter (year : Nat) : Nat := (((year : Int) - (epoch : Int)) % 4).toNat

/-- `dim(month, year)`, days in a month (R202). -/
def dim (month year : Nat) : Nat :=
  match month with
  | 2 => if leapCounter year = 0 then 29 else 28
  | 4 | 6 | 9 | 11 => 30
  | _ => 31

/-- Every field is in its legal range (R203); a legal value of `hw` (R49). -/
def DateTime.legal (t : DateTime) : Bool :=
  decide (t.sec ≤ 59) && decide (t.min ≤ 59) && decide (t.hour ≤ 23) && decide (t.wday ≤ 6) &&
    decide (1 ≤ t.month) && decide (t.month ≤ 12) && decide (t.year ≤ 99) &&
    decide (1 ≤ t.day) && decide (t.day ≤ dim t.month t.year)

/-- `emu_fields()` (R203): the date and time that bank 0 holds, `none` when not valid. The hour is always read in the
24-hour format (R204). -/
def emuFields (s : State) : Option DateTime := do
  let sec ← bcd2 (s.cell 0#2 0x1#4) (s.cell 0#2 0x0#4)
  let min ← bcd2 (s.cell 0#2 0x3#4) (s.cell 0#2 0x2#4)
  let hour ← bcd2 (s.cell 0#2 0x5#4) (s.cell 0#2 0x4#4)
  let day ← bcd2 (s.cell 0#2 0x8#4) (s.cell 0#2 0x7#4)
  let month ← bcd2 (s.cell 0#2 0xA#4) (s.cell 0#2 0x9#4)
  let year ← bcd2 (s.cell 0#2 0xC#4) (s.cell 0#2 0xB#4)
  let t : DateTime := { sec, min, hour, wday := (s.cell 0#2 0x6#4).toNat, day, month, year }
  if t.legal then some t else none

/-- `hw_commit(f)` (R206): inside the atomic step the cleared `hw.wp` is not observable. -/
def hwCommit (f : DateTime) (s : State) : State := { s with hw := { time := f, wp := true }, lastSec := f.sec }

/-- Nibble `i` of bank `b` as the backup holds it (R214): the channel registers are never stored, and a word's
nibbles beyond address 0xC are 0. -/
def backupNibble (s : State) (b : BankNo) (i : Nat) : Nibble :=
  if 0xC < i ∨ (b = 1#2 ∧ i < 2) then 0#4 else s.cell b (BitVec.ofNat 4 i)

/-- Nibble `i` of a word at bits `4i+3 : 4i` (R75, R214). -/
def packNibbles (nibs : List Nibble) : Word32 := nibs.foldr (fun n acc => (acc <<< 4) ||| n.setWidth 32) 0#32

/-- `nib(w, i) = w[4i+3 : 4i]` (R214). -/
def nib (w : Word32) (i : Nat) : Nibble := w.extractLsb' (4 * i) 4

/-- The backup word of the eight addresses from `8 * half` on of bank `b` (R214). -/
def backupWord (s : State) (b : BankNo) (half : Nat) : Word32 :=
  packNibbles ((List.range 8).map (fun i => backupNibble s b (8 * half + i)))

/-- `nv_store()` (R216): all seven words, the cookie included. -/
def nvStore (s : State) : State :=
  { s with
    nv := #v[nvCookie, backupWord s 1#2 0, backupWord s 1#2 1, backupWord s 2#2 0, backupWord s 2#2 1,
             backupWord s 3#2 0, backupWord s 3#2 1] }

/-- `nib(nv[2b-1 + a/8], a mod 8)` (R214, R215). -/
def backupRead (nv : Vector Word32 7) (b : BankNo) (a : Nibble) : Nibble :=
  nib (nv.toList.getD (2 * b.toNat - 1 + a.toNat / 8) 0#32) (a.toNat % 8)

/-- The cells that the restore writes (R215). -/
def restoredCells : List (BankNo × Nibble) :=
  [(1#2, 0x2#4), (1#2, 0x3#4), (1#2, 0x4#4), (1#2, 0x5#4), (1#2, 0x6#4), (1#2, 0x7#4), (1#2, 0x8#4), (1#2, 0x9#4), (1#2, 0xA#4), (1#2, 0xB#4), (1#2, 0xC#4),
   (2#2, 0x0#4), (2#2, 0x1#4), (2#2, 0x2#4), (2#2, 0x3#4), (2#2, 0x4#4), (2#2, 0x5#4), (2#2, 0x6#4), (2#2, 0x7#4), (2#2, 0x8#4), (2#2, 0x9#4), (2#2, 0xA#4),
   (2#2, 0xB#4), (2#2, 0xC#4),
   (3#2, 0x0#4), (3#2, 0x1#4), (3#2, 0x2#4), (3#2, 0x3#4), (3#2, 0x4#4), (3#2, 0x5#4), (3#2, 0x6#4), (3#2, 0x7#4), (3#2, 0x8#4), (3#2, 0x9#4), (3#2, 0xA#4),
   (3#2, 0xB#4), (3#2, 0xC#4)]

/-- `nv_restore()` (R215): on a cookie mismatch nothing is read and nothing is written. -/
def nvRestore (s : State) : State :=
  if s.nv.toList.getD 0 0#32 = nvCookie then
    restoredCells.foldl (fun t c => storeMasked c.1 c.2 (backupRead s.nv c.1 c.2) t) s
  else s

/-- The digits of a date and time, with the cells they go to (R210). -/
def digitCells (t : DateTime) : List (BankNo × Nibble × Nat) :=
  [(0#2, 0x0#4, t.sec % 10), (0#2, 0x1#4, t.sec / 10), (0#2, 0x2#4, t.min % 10), (0#2, 0x3#4, t.min / 10),
   (0#2, 0x4#4, t.hour % 10), (0#2, 0x5#4, t.hour / 10), (0#2, 0x6#4, t.wday),
   (0#2, 0x7#4, t.day % 10), (0#2, 0x8#4, t.day / 10), (0#2, 0x9#4, t.month % 10), (0#2, 0xA#4, t.month / 10),
   (0#2, 0xB#4, t.year % 10), (0#2, 0xC#4, t.year / 10), (1#2, 0xB#4, leapCounter t.year)]

/-- `digits_of_hw()` (R210). Every value of a legal date fits its cell's mask; each digit is stored through the mask,
which is U22's way to cover an illegal one (log entry 14). -/
def digitsOfHw (s : State) : State :=
  (digitCells s.hw.time).foldl (fun t c => storeMasked c.1 c.2.1 (BitVec.ofNat 4 c.2.2) t) s

/-- `MAIN.sync_to_hw` is enabled (R205). -/
def syncEnabled (s : State) : Bool := (s.timeDirty || s.ramDirty) && s.timerEnabled

/-- The commit of `MAIN.sync_to_hw` (R207): an invalid date is discarded and `hw` keeps the previous good time. -/
def syncCommit (s : State) : State :=
  if s.timeDirty then
    match emuFields s with
    | some f => hwCommit f s
    | none => s
  else s

/-- `MAIN.sync_to_hw` (R207). -/
def syncToHw (s : State) : State := if syncEnabled s then clearDirty (nvStore (syncCommit s)) else s

/-- `WAKEUP` (R211). -/
def wakeup (s : State) : State :=
  if s.hw.time.sec ≠ s.lastSec then
    let t := { s with lastSec := s.hw.time.sec }
    if s.timerEnabled = true ∧ s.timeDirty = false then digitsOfHw t else t
  else s

/-- The day after `t`, at the same time of day (R213). -/
def nextDay (t : DateTime) : DateTime :=
  let u := { t with wday := (t.wday + 1) % 7 }
  if t.day < dim t.month t.year then { u with day := t.day + 1 }
  else if t.month < 12 then { u with day := 1, month := t.month + 1 }
  else { u with day := 1, month := 1, year := if t.year < 99 then t.year + 1 else 0 }

/-- One second later (R213). -/
def nextSecond (t : DateTime) : DateTime :=
  if t.sec < 59 then { t with sec := t.sec + 1 }
  else if t.min < 59 then { t with sec := 0, min := t.min + 1 }
  else if t.hour < 23 then { t with sec := 0, min := 0, hour := t.hour + 1 }
  else nextDay { t with sec := 0, min := 0, hour := 0 }

/-- `HWRTC.tick` (R213): always enabled, whatever `timer_enabled`. -/
def hwTick (s : State) : State := { s with hw := { s.hw with time := nextSecond s.hw.time } }

end Sys2Proof.Machine
end

