-- ==== Sys2Proof/Machine/Boot.lean ====
section
/-! DEFINITION. Reset and the boot sequence (R404, R410 to R414). -/

namespace Sys2Proof.Machine

/-- The MCU stops (R404, R410): from here to the end of BOOT no handler and no main-loop step runs (R414). -/
def mcuReset (s : State) : State := { s with handlersEnabled := false }

/-- The state that R56 leaves unspecified, taken from the environment (U8, U14, U15; log entries 5, 6). -/
def loadBootValues (v : BootValues) (s : State) : State :=
  { s with
    now := v.now
    inb :=
      { s.inb with
        buf := Memory.ofBytes (v.inBuf.take (bufSize s.params))
        len := v.inLen % 2 ^ (8 * s.params.lenWidth)
        expected := v.inExpected
        deadline := v.inDeadline }
    outb := { s.outb with buf := Memory.ofBytes (v.outBuf.take (bufSize s.params)), deadline := v.outDeadline }
    cfg := Memory.ofBytes (v.cfg.take s.params.cfgSize)
    map := Memory.ofBytes (v.map.take s.params.mapSize) }

/-- The first lines of BOOT (R411): all cells 0, `MODE` 0x8 in every bank, bank 0, timer on, 24-hour. -/
def bootBank (s : State) : State := (setMode 0x8#4 { s with bank := Vector.replicate 64 0#4 }).setCell 1#2 0xA#4 1#4

/-- The last lines of BOOT (R411): the protocol state idle, the queues and the log empty, the handlers enabled. -/
def bootProtocol (s : State) : State :=
  { s with
    lastSec := s.hw.time.sec
    timeDirty := false
    ramDirty := false
    inb := { s.inb with hi := 0, pos := 0, state := .idle }
    outb := { s.outb with active := false, pos := 0, len := 0 }
    uptimeUs := 0
    consOut := []
    consIn := []
    diag := []
    hw := { s.hw with wp := true }
    handlersEnabled := true }

/-- `BOOT` (R411). -/
def bootSequence (s : State) : State := bootProtocol (digitsOfHw (nvRestore (bootBank s)))

/-- The step of BOOT: it runs when the MCU has stopped (R410). -/
def boot (v : BootValues) (s : State) : State :=
  if s.handlersEnabled = false then bootSequence (loadBootValues v s) else s

end Sys2Proof.Machine
end

