-- ==== Sys2Proof/Machine/Writes.lean ====
section
/-! DEFINITION. The store of rule R141, shared by the writes of the time, alarm, setting and RAM registers. -/

namespace Sys2Proof.Machine

/-- The last branch of `WRITE(a, d)` (R141): the masked nibble is stored and the bank's dirty flag set. -/
def wrCell (bank : BankNo) (a d : Nibble) (s : State) : State := markDirty bank (storeMasked bank a d s)

end Sys2Proof.Machine
end

