-- ==== Sys2Proof/Machine/AlarmWrites.lean ====
section
/-! DEFINITION. The writes of the alarm and setting registers, bank 1 (R160 to R170). No range check is ever
applied to alarm digits (R160). -/

namespace Sys2Proof.Machine

/-- WR_AMI1, alarm units of minutes (R160). -/
def execWrAmi1 (d : Nibble) (s : State) : Host.Outcome State Fault Refusal := .next (wrCell 1#2 0x2#4 d s)

/-- WR_AMI10, alarm tens of minutes (R161). -/
def execWrAmi10 (d : Nibble) (s : State) : Host.Outcome State Fault Refusal := .next (wrCell 1#2 0x3#4 d s)

/-- WR_AH1, alarm units of hours (R162). -/
def execWrAh1 (d : Nibble) (s : State) : Host.Outcome State Fault Refusal := .next (wrCell 1#2 0x4#4 d s)

/-- WR_AH10, alarm tens of hours (R163). -/
def execWrAh10 (d : Nibble) (s : State) : Host.Outcome State Fault Refusal := .next (wrCell 1#2 0x5#4 d s)

/-- WR_ADOW, alarm day of the week (R164). -/
def execWrAdow (d : Nibble) (s : State) : Host.Outcome State Fault Refusal := .next (wrCell 1#2 0x6#4 d s)

/-- WR_AD1, alarm units of the day (R165). -/
def execWrAd1 (d : Nibble) (s : State) : Host.Outcome State Fault Refusal := .next (wrCell 1#2 0x7#4 d s)

/-- WR_AD10, alarm tens of the day (R166). -/
def execWrAd10 (d : Nibble) (s : State) : Host.Outcome State Fault Refusal := .next (wrCell 1#2 0x8#4 d s)

/-- WR_U9, unused: the mask is 0 (R167). -/
def execWrU9 (d : Nibble) (s : State) : Host.Outcome State Fault Refusal := .next (wrCell 1#2 0x9#4 d s)

/-- WR_H24, 12/24-hour select (R168). -/
def execWrH24 (d : Nibble) (s : State) : Host.Outcome State Fault Refusal := .next (wrCell 1#2 0xA#4 d s)

/-- WR_LEAP, leap-year counter (R169). -/
def execWrLeap (d : Nibble) (s : State) : Host.Outcome State Fault Refusal := .next (wrCell 1#2 0xB#4 d s)

/-- WR_UC, unused: the mask is 0 (R170). -/
def execWrUc (d : Nibble) (s : State) : Host.Outcome State Fault Refusal := .next (wrCell 1#2 0xC#4 d s)

end Sys2Proof.Machine
end

