-- ==== Sys2Proof/Syntax.lean ====
section
/-! DEFINITION. The instructions: one constructor per mnemonic of spec/opcode_table.json. Level 1 (R103) is the
bus cycle: 3 reads and 30 writes. Level 2 (R106, R112) is the command byte of a request frame: 13 commands and
UNKNOWN. Operands are the fields of the encodings of rule R122; a field that the operation ignores is kept, so
that an instruction is exactly its word. -/

namespace Sys2Proof

/-- An operation of the block. `bank` is the bank field of the decode word, that is `cur_bank` at the falling edge
(R101); `a` the register address; `d` the data nibble (ignored by reads); `opt` the option bits and `code` the
command code of a command byte (R106). -/
inductive Instr where
  /-- RD_REG (R142) -/
  | rdReg (bank : BankNo) (a d : Nibble)
  /-- RD_MSGHI (R143) -/
  | rdMsghi (d : Nibble)
  /-- RD_MSGLO (R144) -/
  | rdMsglo (d : Nibble)
  /-- WR_S1 (R145) -/
  | wrS1 (d : Nibble)
  /-- WR_S10 (R146) -/
  | wrS10 (d : Nibble)
  /-- WR_MI1 (R147) -/
  | wrMi1 (d : Nibble)
  /-- WR_MI10 (R148) -/
  | wrMi10 (d : Nibble)
  /-- WR_H1 (R149) -/
  | wrH1 (d : Nibble)
  /-- WR_H10 (R150) -/
  | wrH10 (d : Nibble)
  /-- WR_DOW (R151) -/
  | wrDow (d : Nibble)
  /-- WR_D1 (R152) -/
  | wrD1 (d : Nibble)
  /-- WR_D10 (R153) -/
  | wrD10 (d : Nibble)
  /-- WR_MO1 (R154) -/
  | wrMo1 (d : Nibble)
  /-- WR_MO10 (R155) -/
  | wrMo10 (d : Nibble)
  /-- WR_Y1 (R156) -/
  | wrY1 (d : Nibble)
  /-- WR_Y10 (R157) -/
  | wrY10 (d : Nibble)
  /-- WR_MSGHI (R172) -/
  | wrMsghi (d : Nibble)
  /-- WR_MSGLO (R173) -/
  | wrMsglo (d : Nibble)
  /-- WR_AMI1 (R160) -/
  | wrAmi1 (d : Nibble)
  /-- WR_AMI10 (R161) -/
  | wrAmi10 (d : Nibble)
  /-- WR_AH1 (R162) -/
  | wrAh1 (d : Nibble)
  /-- WR_AH10 (R163) -/
  | wrAh10 (d : Nibble)
  /-- WR_ADOW (R164) -/
  | wrAdow (d : Nibble)
  /-- WR_AD1 (R165) -/
  | wrAd1 (d : Nibble)
  /-- WR_AD10 (R166) -/
  | wrAd10 (d : Nibble)
  /-- WR_U9 (R167) -/
  | wrU9 (d : Nibble)
  /-- WR_H24 (R168) -/
  | wrH24 (d : Nibble)
  /-- WR_LEAP (R169) -/
  | wrLeap (d : Nibble)
  /-- WR_UC (R170) -/
  | wrUc (d : Nibble)
  /-- WR_RAM (R171) -/
  | wrRam (bank : BankNo) (a d : Nibble)
  /-- WR_MODE (R176) -/
  | wrMode (bank : BankNo) (d : Nibble)
  /-- WR_TEST (R177) -/
  | wrTest (bank : BankNo) (d : Nibble)
  /-- WR_RESET (R178) -/
  | wrReset (bank : BankNo) (d : Nibble)
  /-- NULL (R272) -/
  | cmdNull (opt : BitVec 2)
  /-- NOP (R273) -/
  | cmdNop (opt : BitVec 2)
  /-- ID (R274) -/
  | cmdId (opt : BitVec 2)
  /-- UPTIME (R276) -/
  | cmdUptime (opt : BitVec 2)
  /-- TESTPATT (R278) -/
  | cmdTestpatt (opt : BitVec 2)
  /-- LOOPBACK (R279) -/
  | cmdLoopback (opt : BitVec 2)
  /-- CONS_OUTPUT (R280) -/
  | cmdConsOutput (opt : BitVec 2)
  /-- CONS_INPUT (R281) -/
  | cmdConsInput (opt : BitVec 2)
  /-- SET (R285) -/
  | cmdSet (opt : BitVec 2)
  /-- GET (R286) -/
  | cmdGet (opt : BitVec 2)
  /-- SET_MAP (R287) -/
  | cmdSetMap (opt : BitVec 2)
  /-- GET_MAP (R288) -/
  | cmdGetMap (opt : BitVec 2)
  /-- POLL_INPUT (R289) -/
  | cmdPollInput (opt : BitVec 2)
  /-- UNKNOWN (R290): a command byte that spells no command -/
  | cmdUnknown (opt : BitVec 2) (code : BitVec 6)
  deriving DecidableEq, Repr

/-- What the block decodes: the 11-bit decode word of a bus cycle (R101) or the command byte of a request frame
(R106). -/
inductive CodeWord where
  /-- F-BUS, `bank ∥ w ∥ a ∥ d` (R101) -/
  | bus (w : BitVec 11)
  /-- F-CMD, `opt ∥ code` (R106) -/
  | cmd (b : Byte)
  deriving DecidableEq, Repr

end Sys2Proof
end

