-- ==== Sys2Proof/WellFormed.lean ====
section
/-! DEFINITION. Which terms of `Instr` an encoding spells. The operand types already bound every field; three
constructors are further limited by the map of rule R103 and the codes of rule R112. -/

namespace Sys2Proof

/-- `RD_REG` is any read but those of bank 1 addresses 0x0 and 0x1, which are `RD_MSGHI` and `RD_MSGLO` (R103, R142). -/
def rdRegAdmits (bank : BankNo) (a : Nibble) : Bool := !(bank == 1#2 && (a == 0x0#4 || a == 0x1#4))

/-- `WR_RAM` is a write of bank 2 or 3 at addresses 0x0 to 0xC (R103, R171). -/
def wrRamAdmits (bank : BankNo) (a : Nibble) : Bool := decide (2 ≤ bank.toNat) && decide (a.toNat ≤ 0xC)

/-- `UNKNOWN` is a command code 0x0D to 0x3F (R112, R116). -/
def unknownAdmits (code : BitVec 6) : Bool := decide (0x0D ≤ code.toNat)

/-- The instruction is one that a decode word or a command byte spells. -/
def wellFormed : Instr → Bool
  | .rdReg bank a _ => rdRegAdmits bank a
  | .wrRam bank a _ => wrRamAdmits bank a
  | .cmdUnknown _ code => unknownAdmits code
  | .rdMsghi _ | .rdMsglo _ => true
  | .wrS1 _ | .wrS10 _ | .wrMi1 _ | .wrMi10 _ | .wrH1 _ | .wrH10 _ | .wrDow _ => true
  | .wrD1 _ | .wrD10 _ | .wrMo1 _ | .wrMo10 _ | .wrY1 _ | .wrY10 _ => true
  | .wrMsghi _ | .wrMsglo _ => true
  | .wrAmi1 _ | .wrAmi10 _ | .wrAh1 _ | .wrAh10 _ | .wrAdow _ | .wrAd1 _ | .wrAd10 _ => true
  | .wrU9 _ | .wrH24 _ | .wrLeap _ | .wrUc _ => true
  | .wrMode _ _ | .wrTest _ _ | .wrReset _ _ => true
  | .cmdNull _ | .cmdNop _ | .cmdId _ | .cmdUptime _ | .cmdTestpatt _ | .cmdLoopback _ => true
  | .cmdConsOutput _ | .cmdConsInput _ | .cmdSet _ | .cmdGet _ | .cmdSetMap _ | .cmdGetMap _ => true
  | .cmdPollInput _ => true

end Sys2Proof
end

