-- ==== Sys2Proof/Decode.lean ====
section
/-! DEFINITION. The decoder of the two encodings (R100 to R112) and, after it, the encoder. Both opcode maps are
total (R103, R122): every one of the 2048 decode words and of the 256 command bytes is exactly one operation, so
the decoder refuses nothing but a number that is no decode word. -/

namespace Sys2Proof

/-- The decode word `bank ∥ w ∥ a ∥ d` (R101), `w` = 0 for a read and 1 for a write. -/
def busWord (bank : BankNo) (w : Bool) (a d : Nibble) : BitVec 11 := bank ++ BitVec.ofBool w ++ a ++ d

/-- The field `bank`, bits 10:9 (R101). -/
def busBank (w : BitVec 11) : BankNo := w.extractLsb' 9 2

/-- The field `w`, bit 8 (R101): true for a write. -/
def busIsWrite (w : BitVec 11) : Bool := w.getLsbD 8

/-- The field `a`, bits 7:4 (R101). -/
def busAddr (w : BitVec 11) : Nibble := w.extractLsb' 4 4

/-- The field `d`, bits 3:0 (R101). -/
def busData (w : BitVec 11) : Nibble := w.extractLsb' 0 4

/-- Reads (R103): bank 1 addresses 0x0 and 0x1 are the channel registers, every other read is `RD_REG`. -/
def decodeRead (bank : BankNo) (a d : Nibble) : Instr :=
  if bank = 1#2 ∧ a = 0x0#4 then .rdMsghi d
  else if bank = 1#2 ∧ a = 0x1#4 then .rdMsglo d
  else .rdReg bank a d

/-- Writes of bank 0, addresses 0x0 to 0xC in order (R103). -/
def decodeTimeWrite (a d : Nibble) : Instr :=
  match a.toNat with
  | 0x0 => .wrS1 d
  | 0x1 => .wrS10 d
  | 0x2 => .wrMi1 d
  | 0x3 => .wrMi10 d
  | 0x4 => .wrH1 d
  | 0x5 => .wrH10 d
  | 0x6 => .wrDow d
  | 0x7 => .wrD1 d
  | 0x8 => .wrD10 d
  | 0x9 => .wrMo1 d
  | 0xA => .wrMo10 d
  | 0xB => .wrY1 d
  | _ => .wrY10 d

/-- Writes of bank 1, addresses 0x0 to 0xC in order (R103). -/
def decodeBank1Write (a d : Nibble) : Instr :=
  match a.toNat with
  | 0x0 => .wrMsghi d
  | 0x1 => .wrMsglo d
  | 0x2 => .wrAmi1 d
  | 0x3 => .wrAmi10 d
  | 0x4 => .wrAh1 d
  | 0x5 => .wrAh10 d
  | 0x6 => .wrAdow d
  | 0x7 => .wrAd1 d
  | 0x8 => .wrAd10 d
  | 0x9 => .wrU9 d
  | 0xA => .wrH24 d
  | 0xB => .wrLeap d
  | _ => .wrUc d

/-- Writes (R103): addresses 0xD, 0xE, 0xF mean the same in every bank (R102); 0x0 to 0xC depend on the bank. -/
def decodeWrite (bank : BankNo) (a d : Nibble) : Instr :=
  if a = 0xD#4 then .wrMode bank d
  else if a = 0xE#4 then .wrTest bank d
  else if a = 0xF#4 then .wrReset bank d
  else if bank = 0#2 then decodeTimeWrite a d
  else if bank = 1#2 then decodeBank1Write a d
  else .wrRam bank a d

/-- The level-1 decoder (R103), total. -/
def decodeBus (w : BitVec 11) : Instr :=
  if busIsWrite w then decodeWrite (busBank w) (busAddr w) (busData w)
  else decodeRead (busBank w) (busAddr w) (busData w)

/-- The field `opt`, bits 7:6 of the command byte (R106). -/
def cmdOpt (b : Byte) : BitVec 2 := b.extractLsb' 6 2

/-- The field `code`, bits 5:0 of the command byte (R106). -/
def cmdCode (b : Byte) : BitVec 6 := b.extractLsb' 0 6

/-- The level-2 decoder (R112, R116), total: codes 0x0D to 0x3F spell no command and are `UNKNOWN`. -/
def decodeCmd (b : Byte) : Instr :=
  match (cmdCode b).toNat with
  | 0x00 => .cmdNull (cmdOpt b)
  | 0x01 => .cmdNop (cmdOpt b)
  | 0x02 => .cmdId (cmdOpt b)
  | 0x03 => .cmdUptime (cmdOpt b)
  | 0x04 => .cmdTestpatt (cmdOpt b)
  | 0x05 => .cmdLoopback (cmdOpt b)
  | 0x06 => .cmdConsOutput (cmdOpt b)
  | 0x07 => .cmdConsInput (cmdOpt b)
  | 0x08 => .cmdSet (cmdOpt b)
  | 0x09 => .cmdGet (cmdOpt b)
  | 0x0A => .cmdSetMap (cmdOpt b)
  | 0x0B => .cmdGetMap (cmdOpt b)
  | 0x0C => .cmdPollInput (cmdOpt b)
  | _ => .cmdUnknown (cmdOpt b) (cmdCode b)

/-- The decoder of both levels. -/
def decode : CodeWord → Instr
  | .bus w => decodeBus w
  | .cmd b => decodeCmd b

/-- The instruction of a row of spec/opcode_table.json whose bits are `w`. A row of at most one byte is a command
byte (format "cmd"); a wider one is a bus decode word (format "bus", 11 bits). A number with a bit above the
format's last bit is no word of it and is refused. -/
def decodeTableWord (nbits w : Nat) : Option Instr :=
  if nbits ≤ 8 then
    if w < 2 ^ 8 then some (decode (.cmd (BitVec.ofNat 8 w))) else none
  else if w < 2 ^ 11 then some (decode (.bus (BitVec.ofNat 11 w))) else none

/-- The command byte `opt ∥ code` (R106). -/
def cmdByteOf (opt : BitVec 2) (code : BitVec 6) : Byte := opt ++ code

/-- The encoder: the word of an instruction, from the same tables (R103, R106, R112). -/
def encode : Instr → CodeWord
  | .rdReg bank a d => .bus (busWord bank false a d)
  | .rdMsghi d => .bus (busWord 1#2 false 0x0#4 d)
  | .rdMsglo d => .bus (busWord 1#2 false 0x1#4 d)
  | .wrS1 d => .bus (busWord 0#2 true 0x0#4 d)
  | .wrS10 d => .bus (busWord 0#2 true 0x1#4 d)
  | .wrMi1 d => .bus (busWord 0#2 true 0x2#4 d)
  | .wrMi10 d => .bus (busWord 0#2 true 0x3#4 d)
  | .wrH1 d => .bus (busWord 0#2 true 0x4#4 d)
  | .wrH10 d => .bus (busWord 0#2 true 0x5#4 d)
  | .wrDow d => .bus (busWord 0#2 true 0x6#4 d)
  | .wrD1 d => .bus (busWord 0#2 true 0x7#4 d)
  | .wrD10 d => .bus (busWord 0#2 true 0x8#4 d)
  | .wrMo1 d => .bus (busWord 0#2 true 0x9#4 d)
  | .wrMo10 d => .bus (busWord 0#2 true 0xA#4 d)
  | .wrY1 d => .bus (busWord 0#2 true 0xB#4 d)
  | .wrY10 d => .bus (busWord 0#2 true 0xC#4 d)
  | .wrMsghi d => .bus (busWord 1#2 true 0x0#4 d)
  | .wrMsglo d => .bus (busWord 1#2 true 0x1#4 d)
  | .wrAmi1 d => .bus (busWord 1#2 true 0x2#4 d)
  | .wrAmi10 d => .bus (busWord 1#2 true 0x3#4 d)
  | .wrAh1 d => .bus (busWord 1#2 true 0x4#4 d)
  | .wrAh10 d => .bus (busWord 1#2 true 0x5#4 d)
  | .wrAdow d => .bus (busWord 1#2 true 0x6#4 d)
  | .wrAd1 d => .bus (busWord 1#2 true 0x7#4 d)
  | .wrAd10 d => .bus (busWord 1#2 true 0x8#4 d)
  | .wrU9 d => .bus (busWord 1#2 true 0x9#4 d)
  | .wrH24 d => .bus (busWord 1#2 true 0xA#4 d)
  | .wrLeap d => .bus (busWord 1#2 true 0xB#4 d)
  | .wrUc d => .bus (busWord 1#2 true 0xC#4 d)
  | .wrRam bank a d => .bus (busWord bank true a d)
  | .wrMode bank d => .bus (busWord bank true 0xD#4 d)
  | .wrTest bank d => .bus (busWord bank true 0xE#4 d)
  | .wrReset bank d => .bus (busWord bank true 0xF#4 d)
  | .cmdNull opt => .cmd (cmdByteOf opt 0x00#6)
  | .cmdNop opt => .cmd (cmdByteOf opt 0x01#6)
  | .cmdId opt => .cmd (cmdByteOf opt 0x02#6)
  | .cmdUptime opt => .cmd (cmdByteOf opt 0x03#6)
  | .cmdTestpatt opt => .cmd (cmdByteOf opt 0x04#6)
  | .cmdLoopback opt => .cmd (cmdByteOf opt 0x05#6)
  | .cmdConsOutput opt => .cmd (cmdByteOf opt 0x06#6)
  | .cmdConsInput opt => .cmd (cmdByteOf opt 0x07#6)
  | .cmdSet opt => .cmd (cmdByteOf opt 0x08#6)
  | .cmdGet opt => .cmd (cmdByteOf opt 0x09#6)
  | .cmdSetMap opt => .cmd (cmdByteOf opt 0x0A#6)
  | .cmdGetMap opt => .cmd (cmdByteOf opt 0x0B#6)
  | .cmdPollInput opt => .cmd (cmdByteOf opt 0x0C#6)
  | .cmdUnknown opt code => .cmd (cmdByteOf opt code)

end Sys2Proof
end

