-- ==== Sys2Proof/Machine/Commands.lean ====
section
/-! DEFINITION. The commands (R270 to R292). The effect of each is one `run…` function of the state, whose operands
are in `in_buf` (R270); `execCmd` is the dispatcher's closed match, which the fast and the slow path share (R249,
R251), and the meaning `execCmd…` of each command instruction is its `run…`. -/

namespace Sys2Proof.Machine

open Sys2Proof.Config

/-- `cmd_null()` (R272): no reply, the outbound state is not touched. -/
def runNull (s : State) : State := s

/-- `cmd_nop()` (R273). -/
def runNop (s : State) : State := reply .ok [] s

/-- `id_payload()`, the 88 bytes of the ID reply (R275). -/
def idPayload (p : Params) : List Byte :=
  beBytes 2 p.idVersion0.toNat ++ beBytes 2 p.idVersion1.toNat ++ p.idDate.toList ++ p.idTime.toList ++
    padTo 24 p.idSerial ++ beBytes 2 p.idFeatures.toNat ++ beBytes 2 protocolRev.toNat ++ padTo 16 p.boardName ++
    List.replicate 32 0#8

/-- `cmd_id()` (R274). -/
def runId (s : State) : State := reply .ok (idPayload s.params) s

/-- `cmd_uptime()` (R276). -/
def runUptime (s : State) : State := reply .ok (beBytes 8 s.uptimeUs.toNat) s

/-- `cmd_testpatt()` (R278). -/
def runTestpatt (s : State) : State := reply .ok testPattern s

/-- `cmd_loopback(P)` (R279). -/
def runLoopback (s : State) : State := reply .ok (payload s) s

/-- `cmd_cons_output()` (R280): at most `CHUNK_MAX` bytes leave the queue. -/
def runConsOutput (s : State) : State :=
  let k := min s.consOut.length s.params.chunkMax
  reply .ok (s.consOut.take k) { s with consOut := s.consOut.drop k }

/-- `cmd_cons_input(P)` (R281): all of the bytes or none. -/
def runConsInput (s : State) : State :=
  if s.consIn.length + (payload s).length ≤ s.params.consInCap then
    reply .ok [] { s with consIn := s.consIn ++ payload s }
  else reply .fail [] s

/-- `cmd_set(store, SIZE, P)` (R285): the store after it, and the status. -/
def setStore (store : Memory) (size : Nat) (p : List Byte) : Memory × Status :=
  if p.length < 2 then (store, .badlen)
  else if size < offsetOf p + (dataOf p).length then (store, .badarg)
  else (Memory.writeBytes store (offsetOf p) (dataOf p), .ok)

/-- `cmd_get(store, SIZE, P)` (R286): the status and the bytes read, truncated to `CHUNK_MAX`. -/
def getStore (store : Memory) (size chunkMax : Nat) (p : List Byte) : Status × List Byte :=
  if p.length ≠ 4 then (.badlen, [])
  else if size < offsetOf p then (.badarg, [])
  else (.ok, Memory.readBytes store (offsetOf p) (min (min (countOf p) (size - offsetOf p)) chunkMax))

/-- SET (R285). -/
def runSet (s : State) : State :=
  let r := setStore s.cfg s.params.cfgSize (payload s)
  reply r.2 [] { s with cfg := r.1 }

/-- GET (R286). -/
def runGet (s : State) : State :=
  let r := getStore s.cfg s.params.cfgSize s.params.chunkMax (payload s)
  reply r.1 r.2 s

/-- SET_MAP (R287). -/
def runSetMap (s : State) : State :=
  let r := setStore s.map s.params.mapSize (payload s)
  reply r.2 [] { s with map := r.1 }

/-- GET_MAP (R288). -/
def runGetMap (s : State) : State :=
  let r := getStore s.map s.params.mapSize s.params.chunkMax (payload s)
  reply r.1 r.2 s

/-- `env_poll_input(P)` (R289, log entry 11): the parameter table; a payload it does not list is answered
(NODATA, empty), as the default environment answers every payload. -/
def envPollInput (p : Params) (request : List Byte) : Status × List Byte :=
  match p.pollTable.find? (fun e => e.1 == request) with
  | some e => (.ok, e.2)
  | none => (.nodata, [])

/-- `cmd_poll_input(P)` (R289). -/
def runPollInput (s : State) : State :=
  let r := envPollInput s.params (payload s)
  reply r.1 r.2 s

/-- `cmd_unknown()` (R290). -/
def runUnknown (s : State) : State := reply .unkcmd [] s

/-- `exec_cmd()` (R270): the command whose byte stands in `in_buf[2]`. The decoder answers no bus operation for a
command byte, so the last arm is never taken. -/
def execCmd (s : State) : State :=
  match decodeCmd (cmdByte s) with
  | .cmdNull _ => runNull s
  | .cmdNop _ => runNop s
  | .cmdId _ => runId s
  | .cmdUptime _ => runUptime s
  | .cmdTestpatt _ => runTestpatt s
  | .cmdLoopback _ => runLoopback s
  | .cmdConsOutput _ => runConsOutput s
  | .cmdConsInput _ => runConsInput s
  | .cmdSet _ => runSet s
  | .cmdGet _ => runGet s
  | .cmdSetMap _ => runSetMap s
  | .cmdGetMap _ => runGetMap s
  | .cmdPollInput _ => runPollInput s
  | .cmdUnknown _ _ => runUnknown s
  | .rdReg _ _ _ | .rdMsghi _ | .rdMsglo _
  | .wrS1 _ | .wrS10 _ | .wrMi1 _ | .wrMi10 _ | .wrH1 _ | .wrH10 _ | .wrDow _
  | .wrD1 _ | .wrD10 _ | .wrMo1 _ | .wrMo10 _ | .wrY1 _ | .wrY10 _
  | .wrMsghi _ | .wrMsglo _
  | .wrAmi1 _ | .wrAmi10 _ | .wrAh1 _ | .wrAh10 _ | .wrAdow _ | .wrAd1 _ | .wrAd10 _
  | .wrU9 _ | .wrH24 _ | .wrLeap _ | .wrUc _
  | .wrRam _ _ _ | .wrMode _ _ | .wrTest _ _ | .wrReset _ _ => s

/-- The command's code is in `FAST_SET` = NULL, NOP, CONS_OUTPUT, CONS_INPUT (R249, D14). -/
def isFast : Instr → Bool
  | .cmdNull _ | .cmdNop _ | .cmdConsOutput _ | .cmdConsInput _ => true
  | .cmdId _ | .cmdUptime _ | .cmdTestpatt _ | .cmdLoopback _ | .cmdSet _ | .cmdGet _ | .cmdSetMap _ | .cmdGetMap _
  | .cmdPollInput _ | .cmdUnknown _ _ => false
  | .rdReg _ _ _ | .rdMsghi _ | .rdMsglo _
  | .wrS1 _ | .wrS10 _ | .wrMi1 _ | .wrMi10 _ | .wrH1 _ | .wrH10 _ | .wrDow _
  | .wrD1 _ | .wrD10 _ | .wrMo1 _ | .wrMo10 _ | .wrY1 _ | .wrY10 _
  | .wrMsghi _ | .wrMsglo _
  | .wrAmi1 _ | .wrAmi10 _ | .wrAh1 _ | .wrAh10 _ | .wrAdow _ | .wrAd1 _ | .wrAd10 _
  | .wrU9 _ | .wrH24 _ | .wrLeap _ | .wrUc _
  | .wrRam _ _ _ | .wrMode _ _ | .wrTest _ _ | .wrReset _ _ => false

/-- NULL (R272). -/
def execCmdNull (_opt : BitVec 2) (s : State) : Host.Outcome State Fault Refusal := .next (runNull s)

/-- NOP (R273). -/
def execCmdNop (_opt : BitVec 2) (s : State) : Host.Outcome State Fault Refusal := .next (runNop s)

/-- ID (R274). -/
def execCmdId (_opt : BitVec 2) (s : State) : Host.Outcome State Fault Refusal := .next (runId s)

/-- UPTIME (R276). -/
def execCmdUptime (_opt : BitVec 2) (s : State) : Host.Outcome State Fault Refusal := .next (runUptime s)

/-- TESTPATT (R278). -/
def execCmdTestpatt (_opt : BitVec 2) (s : State) : Host.Outcome State Fault Refusal := .next (runTestpatt s)

/-- LOOPBACK (R279). -/
def execCmdLoopback (_opt : BitVec 2) (s : State) : Host.Outcome State Fault Refusal := .next (runLoopback s)

/-- CONS_OUTPUT (R280). -/
def execCmdConsOutput (_opt : BitVec 2) (s : State) : Host.Outcome State Fault Refusal := .next (runConsOutput s)

/-- CONS_INPUT (R281). -/
def execCmdConsInput (_opt : BitVec 2) (s : State) : Host.Outcome State Fault Refusal := .next (runConsInput s)

/-- SET (R285). -/
def execCmdSet (_opt : BitVec 2) (s : State) : Host.Outcome State Fault Refusal := .next (runSet s)

/-- GET (R286). -/
def execCmdGet (_opt : BitVec 2) (s : State) : Host.Outcome State Fault Refusal := .next (runGet s)

/-- SET_MAP (R287). -/
def execCmdSetMap (_opt : BitVec 2) (s : State) : Host.Outcome State Fault Refusal := .next (runSetMap s)

/-- GET_MAP (R288). -/
def execCmdGetMap (_opt : BitVec 2) (s : State) : Host.Outcome State Fault Refusal := .next (runGetMap s)

/-- POLL_INPUT (R289). -/
def execCmdPollInput (_opt : BitVec 2) (s : State) : Host.Outcome State Fault Refusal := .next (runPollInput s)

/-- UNKNOWN (R290). -/
def execCmdUnknown (_opt : BitVec 2) (_code : BitVec 6) (s : State) : Host.Outcome State Fault Refusal :=
  .next (runUnknown s)

end Sys2Proof.Machine
end

