-- ==== Sys2Proof/Machine/Assembler.lean ====
section
/-! DEFINITION. The frame assembler and the dispatcher's control (R240 to R252). -/

namespace Sys2Proof.Machine

open Sys2Proof.Config

/-- The first magic byte is accepted: the match stands at position 1 and the deadline is armed (R244). -/
def startMagic (b : Byte) (s : State) : State :=
  { s with
    inb :=
      { s.inb with
        buf := Memory.write s.inb.buf 0 b, pos := 1, state := .accumulating, deadline := s.now + inTimeoutMs } }

/-- `magic_phase(B)` (R244), for `in_pos` 0 or 1. -/
def magicPhase (b : Byte) (s : State) : State :=
  if s.inb.pos = 0 then
    if b = magic0 then startMagic b s else { s with inb := { s.inb with pos := 0, state := .idle } }
  else if b = magic1 then
    { s with inb := { s.inb with buf := Memory.write s.inb.buf 1 b, pos := 2 } }
  else if b = magic0 then startMagic b s
  else { s with inb := { s.inb with pos := 0, state := .idle } }

/-- `store_byte(B)` (R245): a byte beyond the buffer is counted and not stored. -/
def storeByte (b : Byte) (s : State) : State :=
  { s with
    inb :=
      { s.inb with
        buf := if s.inb.pos < bufSize s.params then Memory.write s.inb.buf s.inb.pos b else s.inb.buf
        pos := s.inb.pos + 1 } }

/-- `header_known()` (R246). -/
def headerKnown (s : State) : State :=
  { s with
    inb :=
      { s.inb with
        len := lenField s, expected := hdrLen s.params + lenField s + crcLen, state := .headerKnown } }

/-- The fast path takes the completed frame (R249). -/
def fastPathTakes (s : State) : Bool := crcOk s && optOk s && isFast (decodeCmd (cmdByte s))

/-- `complete()` (R247, R249): the command runs at once on the fast path, or the frame is queued. -/
def complete (s : State) : State :=
  if fastPathTakes s then clearInbound (execCmd s) else { s with inb := { s.inb with state := .queuedSlow } }

/-- `asm_push(B)` (R242): the two tests after the byte is stored are made in this order. -/
def asmPush (b : Byte) (s : State) : State :=
  if s.inb.state = .queuedSlow then s
  else if s.inb.pos < 2 then magicPhase b s
  else
    let t := storeByte b s
    let u := if t.inb.pos = hdrLen t.params then headerKnown t else t
    if u.inb.state = .headerKnown ∧ u.inb.pos = u.inb.expected then complete u else u

/-- `MAIN.slow_dispatch` (R251): the first test that applies decides the status (R383). -/
def slowDispatch (s : State) : State :=
  if s.inb.state = .queuedSlow then
    clearInbound
      (if s.params.payloadMax < s.inb.len then reply .badlen [] s
       else if crcOk s = false then reply .crc [] s
       else if optOk s = false then reply .unkcmd [] s
       else execCmd s)
  else s

/-- `MAIN.in_timeout` is enabled (R252). -/
def inTimeoutEnabled (s : State) : Bool :=
  (s.inb.state == .accumulating || s.inb.state == .headerKnown) && hasElapsed s s.inb.deadline

/-- `MAIN.in_timeout` (R252). -/
def inTimeout (s : State) : State :=
  if inTimeoutEnabled s then
    { s with
      diag :=
        s.diag ++
          [{ received := s.inb.pos, expected := if s.inb.state = .headerKnown then some s.inb.expected else none }]
      inb := { s.inb with pos := 0, state := .idle, hi := 0 } }
  else s

/-- `MAIN.out_timeout` is enabled (R314). -/
def outTimeoutEnabled (s : State) : Bool := s.outb.active && hasElapsed s s.outb.deadline

/-- `MAIN.out_timeout` (R314). -/
def outTimeout (s : State) : State := if outTimeoutEnabled s then outFinish s else s

end Sys2Proof.Machine
end

