-- ==== Sys2Proof/Machine/ChannelWrites.lean ====
section
/-! DEFINITION. The writes of the channel registers, bank 1 addresses 0x0 and 0x1 (R172, R173). -/

namespace Sys2Proof.Machine

/-- WR_MSGHI (R172): the captured nibble into the latch; no cell and no flag changes. -/
def execWrMsghi (d : Nibble) (s : State) : Host.Outcome State Fault Refusal :=
  .next { s with inb := { s.inb with hi := d } }

/-- `wr_msglo(d)` (R173): the byte `in_hi ∥ d` goes to the assembler, the latch is cleared first. -/
def wrMsglo (d : Nibble) (s : State) : State :=
  asmPush (byteOf s.inb.hi d) { s with inb := { s.inb with hi := 0 } }

/-- WR_MSGLO (R173). -/
def execWrMsglo (d : Nibble) (s : State) : Host.Outcome State Fault Refusal := .next (wrMsglo d s)

end Sys2Proof.Machine
end

