-- ==== Sys2Proof/Machine/ControlWrites.lean ====
section
/-! DEFINITION. The writes of the control registers, addresses 0xD to 0xF of every bank (R176 to R180). -/

namespace Sys2Proof.Machine

/-- WR_MODE (R176). -/
def execWrMode (_bank : BankNo) (d : Nibble) (s : State) : Host.Outcome State Fault Refusal := .next (setMode d s)

/-- WR_TEST (R177): no effect of any kind. -/
def execWrTest (_bank : BankNo) (_d : Nibble) (s : State) : Host.Outcome State Fault Refusal := .next s

/-- `wr_reset(d)` (R178): bit 0 clears the alarm, bit 1 resets the protocol, alarm first; bits 3:2 are ignored. -/
def resetAction (d : Nibble) (s : State) : State :=
  let t := if d.getLsbD 0 then alarmClear s else s
  if d.getLsbD 1 then protoReset t else t

/-- WR_RESET (R178). -/
def execWrReset (_bank : BankNo) (d : Nibble) (s : State) : Host.Outcome State Fault Refusal := .next (resetAction d s)

end Sys2Proof.Machine
end

