-- ==== Sys2Proof/Machine/RamWrites.lean ====
section
/-! DEFINITION. The write of the RAM registers, banks 2 and 3 (R171). -/

namespace Sys2Proof.Machine

/-- WR_RAM (R171). The decode word's bank is `cur_bank` at the falling edge (R101). -/
def execWrRam (bank : BankNo) (a d : Nibble) (s : State) : Host.Outcome State Fault Refusal :=
  .next (wrCell bank a d s)

end Sys2Proof.Machine
end

