-- ==== Sys2Proof/Machine/Reads.lean ====
section
/-! DEFINITION. The level-1 reads (R140, R142 to R144). -/

namespace Sys2Proof.Machine

/-- `post_read_msghi()` (R143). -/
def postReadMsghi (s : State) : State :=
  if s.outb.active = true ∧ s.outb.pos % 2 = 0 then { s with outb := { s.outb with pos := s.outb.pos + 1 } } else s

/-- `post_read_msglo()` (R144). -/
def postReadMsglo (s : State) : State :=
  if s.outb.active = true ∧ s.outb.pos % 2 = 1 then
    let t := { s with outb := { s.outb with pos := s.outb.pos + 1 } }
    if t.outb.pos = 2 * t.outb.len then outFinish t else outLoad t
  else s

/-- RD_REG (R142). The decode word's bank is `cur_bank` at the falling edge (R101); `d` is ignored. -/
def execRdReg (bank : BankNo) (a _d : Nibble) (s : State) : Host.Outcome State Fault Refusal :=
  .next (driveRead (s.cell bank a) s)

/-- RD_MSGHI (R143): the value is the cell's before the post-read action (R140). -/
def execRdMsghi (_d : Nibble) (s : State) : Host.Outcome State Fault Refusal :=
  .next (postReadMsghi (driveRead (s.cell msgBank msgHiAddr) s))

/-- RD_MSGLO (R144). -/
def execRdMsglo (_d : Nibble) (s : State) : Host.Outcome State Fault Refusal :=
  .next (postReadMsglo (driveRead (s.cell msgBank msgLoAddr) s))

end Sys2Proof.Machine
end

