-- ==== Sys2Proof/Machine/TimeWrites.lean ====
section
/-! DEFINITION. The writes of the time registers, bank 0 (R145 to R157). -/

namespace Sys2Proof.Machine

/-- WR_S1, units of seconds (R145). -/
def execWrS1 (d : Nibble) (s : State) : Host.Outcome State Fault Refusal := .next (wrCell 0#2 0x0#4 d s)

/-- WR_S10, tens of seconds (R146). -/
def execWrS10 (d : Nibble) (s : State) : Host.Outcome State Fault Refusal := .next (wrCell 0#2 0x1#4 d s)

/-- WR_MI1, units of minutes (R147). -/
def execWrMi1 (d : Nibble) (s : State) : Host.Outcome State Fault Refusal := .next (wrCell 0#2 0x2#4 d s)

/-- WR_MI10, tens of minutes (R148). -/
def execWrMi10 (d : Nibble) (s : State) : Host.Outcome State Fault Refusal := .next (wrCell 0#2 0x3#4 d s)

/-- WR_H1, units of hours (R149). -/
def execWrH1 (d : Nibble) (s : State) : Host.Outcome State Fault Refusal := .next (wrCell 0#2 0x4#4 d s)

/-- WR_H10, tens of hours (R150). -/
def execWrH10 (d : Nibble) (s : State) : Host.Outcome State Fault Refusal := .next (wrCell 0#2 0x5#4 d s)

/-- WR_DOW, day of the week (R151). -/
def execWrDow (d : Nibble) (s : State) : Host.Outcome State Fault Refusal := .next (wrCell 0#2 0x6#4 d s)

/-- WR_D1, units of the day (R152). -/
def execWrD1 (d : Nibble) (s : State) : Host.Outcome State Fault Refusal := .next (wrCell 0#2 0x7#4 d s)

/-- WR_D10, tens of the day (R153). -/
def execWrD10 (d : Nibble) (s : State) : Host.Outcome State Fault Refusal := .next (wrCell 0#2 0x8#4 d s)

/-- WR_MO1, units of the month (R154). -/
def execWrMo1 (d : Nibble) (s : State) : Host.Outcome State Fault Refusal := .next (wrCell 0#2 0x9#4 d s)

/-- WR_MO10, tens of the month (R155). -/
def execWrMo10 (d : Nibble) (s : State) : Host.Outcome State Fault Refusal := .next (wrCell 0#2 0xA#4 d s)

/-- WR_Y1, units of the year (R156). -/
def execWrY1 (d : Nibble) (s : State) : Host.Outcome State Fault Refusal := .next (wrCell 0#2 0xB#4 d s)

/-- WR_Y10, tens of the year (R157). -/
def execWrY10 (d : Nibble) (s : State) : Host.Outcome State Fault Refusal := .next (wrCell 0#2 0xC#4 d s)

end Sys2Proof.Machine
end

