-- ==== Sys2Proof/Machine/Dispatch.lean ====
section
/-! DEFINITION. The meaning of an instruction: one arm per constructor, each one call of its meaning. -/

namespace Sys2Proof.Machine

def exec (i : Instr) (s : State) : Host.Outcome State Fault Refusal :=
  match i with
  | .rdReg bank a d => Sys2Proof.Machine.execRdReg bank a d s
  | .rdMsghi d => Sys2Proof.Machine.execRdMsghi d s
  | .rdMsglo d => Sys2Proof.Machine.execRdMsglo d s
  | .wrS1 d => Sys2Proof.Machine.execWrS1 d s
  | .wrS10 d => Sys2Proof.Machine.execWrS10 d s
  | .wrMi1 d => Sys2Proof.Machine.execWrMi1 d s
  | .wrMi10 d => Sys2Proof.Machine.execWrMi10 d s
  | .wrH1 d => Sys2Proof.Machine.execWrH1 d s
  | .wrH10 d => Sys2Proof.Machine.execWrH10 d s
  | .wrDow d => Sys2Proof.Machine.execWrDow d s
  | .wrD1 d => Sys2Proof.Machine.execWrD1 d s
  | .wrD10 d => Sys2Proof.Machine.execWrD10 d s
  | .wrMo1 d => Sys2Proof.Machine.execWrMo1 d s
  | .wrMo10 d => Sys2Proof.Machine.execWrMo10 d s
  | .wrY1 d => Sys2Proof.Machine.execWrY1 d s
  | .wrY10 d => Sys2Proof.Machine.execWrY10 d s
  | .wrMsghi d => Sys2Proof.Machine.execWrMsghi d s
  | .wrMsglo d => Sys2Proof.Machine.execWrMsglo d s
  | .wrAmi1 d => Sys2Proof.Machine.execWrAmi1 d s
  | .wrAmi10 d => Sys2Proof.Machine.execWrAmi10 d s
  | .wrAh1 d => Sys2Proof.Machine.execWrAh1 d s
  | .wrAh10 d => Sys2Proof.Machine.execWrAh10 d s
  | .wrAdow d => Sys2Proof.Machine.execWrAdow d s
  | .wrAd1 d => Sys2Proof.Machine.execWrAd1 d s
  | .wrAd10 d => Sys2Proof.Machine.execWrAd10 d s
  | .wrU9 d => Sys2Proof.Machine.execWrU9 d s
  | .wrH24 d => Sys2Proof.Machine.execWrH24 d s
  | .wrLeap d => Sys2Proof.Machine.execWrLeap d s
  | .wrUc d => Sys2Proof.Machine.execWrUc d s
  | .wrRam bank a d => Sys2Proof.Machine.execWrRam bank a d s
  | .wrMode bank d => Sys2Proof.Machine.execWrMode bank d s
  | .wrTest bank d => Sys2Proof.Machine.execWrTest bank d s
  | .wrReset bank d => Sys2Proof.Machine.execWrReset bank d s
  | .cmdNull opt => Sys2Proof.Machine.execCmdNull opt s
  | .cmdNop opt => Sys2Proof.Machine.execCmdNop opt s
  | .cmdId opt => Sys2Proof.Machine.execCmdId opt s
  | .cmdUptime opt => Sys2Proof.Machine.execCmdUptime opt s
  | .cmdTestpatt opt => Sys2Proof.Machine.execCmdTestpatt opt s
  | .cmdLoopback opt => Sys2Proof.Machine.execCmdLoopback opt s
  | .cmdConsOutput opt => Sys2Proof.Machine.execCmdConsOutput opt s
  | .cmdConsInput opt => Sys2Proof.Machine.execCmdConsInput opt s
  | .cmdSet opt => Sys2Proof.Machine.execCmdSet opt s
  | .cmdGet opt => Sys2Proof.Machine.execCmdGet opt s
  | .cmdSetMap opt => Sys2Proof.Machine.execCmdSetMap opt s
  | .cmdGetMap opt => Sys2Proof.Machine.execCmdGetMap opt s
  | .cmdPollInput opt => Sys2Proof.Machine.execCmdPollInput opt s
  | .cmdUnknown opt code => Sys2Proof.Machine.execCmdUnknown opt code s

end Sys2Proof.Machine
end

