-- ==== Sys2Proof/Machine/Bus.lean ====
section
/-! DEFINITION. The bus cycle (R72, R101): the lines are sampled once, the decode word is formed with `cur_bank` as it
stands at the falling edge, and BUS_ISR runs the operation in one atomic step. -/

namespace Sys2Proof.Machine

/-- The decode word of a cycle (R101). -/
def cycleWord (c : BusCycle) (s : State) : BitVec 11 := busWord s.curBank c.write c.a c.d

/-- The falling edge (R72): the cycle's timing is its own; nothing is driven or sampled yet. A write never drives `D`
(R80). -/
def openCycle (c : BusCycle) (s : State) : State :=
  { s with bus := { timing := c.timing, driven := none, sampled := none } }

/-- A cycle that is not served (R414, U18): a read returns whatever the undriven lines give, a write is lost. -/
def unservedCycle (c : BusCycle) (s : State) : State :=
  { s with
    bus := { timing := c.timing, driven := none, sampled := if c.write then none else some c.timing.undriven } }

/-- One bus cycle. -/
def busCycle (c : BusCycle) (s : State) : Host.Outcome State Fault Refusal :=
  if s.handlersEnabled then exec (decodeBus (cycleWord c s)) (openCycle c s) else .next (unservedCycle c s)

end Sys2Proof.Machine
end

