-- ==== Sys2Proof/Machine/Transport.lean ====
section
/-! DEFINITION. The host transport (R330 to R343): `send_cmd` and `send_cmd_retry` as steps of the agent HOST, one bus
cycle a step. It is not part of the block (R5); it is the reference behaviour of the bus master. The host shares nothing
with the MCU but the bus (R402): a step reads the call's own context, the host's own clock and the nibble it sampled.
Log entry 18 lists what the rules leave open. -/

namespace Sys2Proof.Machine

open Sys2Proof.Config

/-- The host agent replaced. -/
def setHost (h : HostAgent) (s : State) : State := { s with host := h }

/-- The context of call `k` replaced. -/
def setCall (k : Nat) (c : HostCall) (s : State) : State :=
  setHost { s.host with calls := s.host.calls.set k c } s

/-- The host's local interrupt sources disabled or enabled (R331). -/
def setHostIrq (on : Bool) (s : State) : State := setHost { s.host with irqEnabled := on } s

/-- `RD a` by the host, and what it does with the nibble it sampled. -/
def hostRead (a : Nibble) (t : BusTiming) (s : State) (k : Nibble → State → State) :
    Host.Outcome State Fault Refusal :=
  andThen (busCycle { write := false, a := a, d := 0#4, timing := t } s) (fun u => k (u.bus.sampled.getD 0#4) u)

/-- `WR a, d` by the host. -/
def hostWrite (a d : Nibble) (t : BusTiming) (s : State) (k : State → State) : Host.Outcome State Fault Refusal :=
  andThen (busCycle { write := true, a := a, d := d, timing := t } s) k

/-- The request frame of a call (R104, R334). -/
def requestFrame (p : Params) (cmd : Byte) (arg : List Byte) : List Byte := frameBytes p cmd arg.length arg

/-- The start of a try (R332, R341: "a whole new exchange from step 1"): the mode is read first. -/
def startTry (c : HostCall) : HostCall :=
  { c with phase := .readMode, toSend := [], received := [], reply := [], result := none }

/-- The context of a new call (R330), at the start of its first try; `send_cmd_retry` has nine more (R341). -/
def newCall (cmd : Byte) (arg : List Byte) (replyMax : Nat) (retry : Bool) : HostCall where
  phase := .readMode
  cmd := cmd
  arg := arg
  replyMax := replyMax
  triesLeft := if retry then hostRetryMax - 1 else 0
  savedMode := 0
  toSend := []
  pollsLeft := 0
  waitUntil := 0
  rxHi := 0
  received := []
  reply := []
  result := none

/-- A call of `send_cmd`, or of `send_cmd_retry` (R330, R341): the interrupt sources are disabled (R331). A call made
before another has returned is taken too, and the two run side by side (R343). -/
def hostCall (cmd : Byte) (arg : List Byte) (replyMax : Nat) (retry : Bool) (s : State) : State :=
  setHostIrq false (setHost { s.host with calls := s.host.calls ++ [newCall cmd arg replyMax retry] } s)

/-- The try has its result; the mode is restored before the return (R332). -/
def finishTry (status : Byte) (replyLen : Nat) (reply : List Byte) (c : HostCall) : HostCall :=
  { c with phase := .restoreMode, reply := reply, result := some { status := status, replyLen := replyLen } }

/-- The statuses on which `send_cmd_retry` tries again: CRC, REPLYLEN, REPLYCRC, BADMAGIC, TIMEOUT (R341). -/
def isRetried (status : Byte) : Bool :=
  status == statusCode .crc || status == statusCode .replylen || status == statusCode .replycrc ||
    status == statusCode .badmagic || status == statusCode .timeout

/-- After the mode is restored the try returns, to the caller or to `send_cmd_retry` for the next one (R341). -/
def endTry (c : HostCall) : HostCall :=
  match c.result with
  | some r => { c with phase := if isRetried r.status = true ∧ 0 < c.triesLeft then .retry else .returned }
  | none => { c with phase := .returned }

/-- The length field `L` of the reply, once its bytes are in (R337). -/
def replyLenField (p : Params) (received : List Byte) : Nat := beNat ((received.drop 1).take p.lenWidth)

/-- All of the reply is in: status, length, `L` bytes of payload, the trailer (R337). -/
def replyComplete (p : Params) (received : List Byte) : Bool :=
  decide (1 + p.lenWidth ≤ received.length) &&
    received.length == 1 + p.lenWidth + replyLenField p received + crcLen

/-- Steps 6 and 7 (R338, R339): the length test first, then the CRC, then the reported status. -/
def concludeReply (p : Params) (received : List Byte) (c : HostCall) : HostCall :=
  let len := replyLenField p received
  let body := received.take (1 + p.lenWidth + len)
  let data := body.drop (1 + p.lenWidth)
  let kept := data.take c.replyMax
  if c.replyMax < len then finishTry (statusCode .replylen) c.replyMax kept c
  else if beNat (received.drop (1 + p.lenWidth + len)) ≠ (crc32 p body).toNat then
    finishTry (statusCode .replycrc) len kept c
  else finishTry (received.headD 0#8) len kept c

/-- After a byte is sent (R334, R340): the next one; after the last, NULL returns OK and any other command polls.
DESIGN CHOICE (log entry 27): `cmd = NULL` is the whole command byte 0x00. R340 and R272 do not say whether a host that
sends NULL with option bits set (0x40, 0x80, 0xC0) stops here too; the model's host polls. -/
def byteSent (p : Params) (clock : Nat) (c : HostCall) : HostCall :=
  match c.toSend.tail with
  | b :: rest => { c with toSend := b :: rest, phase := .putHi }
  | [] =>
    if c.cmd = 0x00#8 then finishTry (statusCode .ok) 0 [] { c with toSend := [] }
    else { c with toSend := [], phase := .poll, pollsLeft := p.hostPollMax, waitUntil := clock }

/-- After a poll (R335): the magic's first nibble, or a miss, or the last miss. DESIGN CHOICE (log entry 18): the last
miss ends the try without a further delay. -/
def polled (p : Params) (clock : Nat) (v : Nibble) (c : HostCall) : HostCall :=
  if v = 0xC#4 then { c with phase := .magic2 }
  else if c.pollsLeft ≤ 1 then finishTry (statusCode .timeout) 0 [] { c with pollsLeft := 0 }
  else { c with pollsLeft := c.pollsLeft - 1, waitUntil := clock + p.hostPollDelay }

/-- After a further magic nibble (R336). -/
def magicRead (want v : Nibble) (next : HostPhase) (c : HostCall) : HostCall :=
  if v = want then { c with phase := next, received := [] } else finishTry (statusCode .badmagic) 0 [] c

/-- After a received byte (R337). -/
def byteReceived (p : Params) (lo : Nibble) (c : HostCall) : HostCall :=
  let received := c.received ++ [byteOf c.rxHi lo]
  if replyComplete p received then concludeReply p received { c with received := received }
  else { c with received := received, phase := .getHi }

/-- The next step of call `k`, whose context is `c` (R331 to R341): at most one bus cycle. A call that has returned, or
that is inside its poll delay, does nothing. Every return of a try enables the interrupt sources (R331), and a further
try, which the host starts when it takes the next step (log entry 18), disables them again. -/
def callStep (k : Nat) (c : HostCall) (t : BusTiming) (s : State) : Host.Outcome State Fault Refusal :=
  match c.phase with
  | .returned => .next s
  | .retry => .next (setHostIrq false (setCall k (startTry { c with triesLeft := c.triesLeft - 1 }) s))
  | .readMode => hostRead modeAddr t s (fun m => setCall k { c with savedMode := m, phase := .selectBank })
  | .selectBank =>
    hostWrite modeAddr ((c.savedMode &&& 0xC#4) ||| 1#4) t s
      (setCall k { c with toSend := requestFrame s.params c.cmd c.arg, phase := .putHi })
  | .putHi => hostWrite msgHiAddr (hiNibble (c.toSend.headD 0#8)) t s (setCall k { c with phase := .putLo })
  | .putLo =>
    hostWrite msgLoAddr (loNibble (c.toSend.headD 0#8)) t s (setCall k (byteSent s.params s.host.clock c))
  | .poll =>
    if s.host.clock < c.waitUntil then .next s
    else hostRead msgHiAddr t s (fun v => setCall k (polled s.params s.host.clock v c))
  | .magic2 => hostRead msgLoAddr t s (fun v => setCall k (magicRead 0xD#4 v .magic3 c))
  | .magic3 => hostRead msgHiAddr t s (fun v => setCall k (magicRead 0x6#4 v .magic4 c))
  | .magic4 => hostRead msgLoAddr t s (fun v => setCall k (magicRead 0x8#4 v .getHi c))
  | .getHi => hostRead msgHiAddr t s (fun v => setCall k { c with rxHi := v, phase := .getLo })
  | .getLo => hostRead msgLoAddr t s (fun v => setCall k (byteReceived s.params v c))
  | .restoreMode => hostWrite modeAddr c.savedMode t s (fun u => setHostIrq true (setCall k (endTry c) u))

/-- The next step of the host's call number `k`; with no such call, the host does nothing. -/
def hostStep (k : Nat) (t : BusTiming) (s : State) : Host.Outcome State Fault Refusal :=
  match s.host.calls[k]? with
  | some c => callStep k c t s
  | none => .next s

/-- The host's own time (R335; log entry 18): it has no tie to the MCU's `now` (R390, R402). -/
def hostTick (ms : Nat) (s : State) : State := setHost { s.host with clock := s.host.clock + ms } s

end Sys2Proof.Machine
end

