-- ==== Sys2Proof/Machine/Agents.lean ====
section
/-! DEFINITION. The steps of the agents (R12): what each event does to the state. A step whose agent is not enabled is
not taken: the state stays as it is (log entry 8). -/

namespace Sys2Proof.Machine

/-- A step of an agent that lives on the MCU: a handler, the main loop, the console. None runs before BOOT has ended
(R380, R381, R414). -/
def onMcu (f : State → State) (s : State) : State := if s.handlersEnabled then f s else s

/-- `TICK` (R47): both clocks advance by a positive amount; a pair with a 0 in it is no step of this agent. -/
def tick (ms us : Nat) (s : State) : State :=
  if 0 < ms ∧ 0 < us then { s with now := s.now + ms, uptimeUs := s.uptimeUs + BitVec.ofNat 64 us } else s

/-- `CONSOLE` appends to `cons_out` up to its capacity (R51, R399). -/
def consoleOut (bytes : List Byte) (s : State) : State :=
  { s with consOut := s.consOut ++ bytes.take (s.params.consOutCap - s.consOut.length) }

/-- `CONSOLE` removes from the head of `cons_in` (R51, R399). -/
def consoleIn (n : Nat) (s : State) : State := { s with consIn := s.consIn.drop n }

/-- One step of one agent. -/
def runEvent (e : Event) (s : State) : Host.Outcome State Fault Refusal :=
  match e with
  | .bus c => busCycle c s
  | .wakeup => .next (onMcu wakeup s)
  | .slowDispatch => .next (onMcu slowDispatch s)
  | .syncToHw => .next (onMcu syncToHw s)
  | .inTimeout => .next (onMcu inTimeout s)
  | .outTimeout => .next (onMcu outTimeout s)
  | .hwTick => .next (hwTick s)
  | .tick ms us => .next (tick ms us s)
  | .consoleOut bytes => .next (onMcu (consoleOut bytes) s)
  | .consoleIn n => .next (onMcu (consoleIn n) s)
  | .hostCall cmd arg replyMax retry => .next (hostCall cmd arg replyMax retry s)
  | .hostStep k t => hostStep k t s
  | .hostTick ms => .next (hostTick ms s)
  | .mcuReset => .next (mcuReset s)
  | .boot v => .next (boot v s)

/-- The step that the main loop takes of its own accord (R12, R84): an enabled one; with none enabled, none. The order
among enabled ones is the model's choice (DESIGN CHOICE, log entry 1). -/
def mainLoop (s : State) : State :=
  if s.inb.state = .queuedSlow then slowDispatch s
  else if syncEnabled s then syncToHw s
  else if inTimeoutEnabled s then inTimeout s
  else if outTimeoutEnabled s then outTimeout s
  else s

/-- The machine's next step: the oldest of the steps still to be taken. With none left, the main loop goes on: so
"every enabled `MAIN` step is eventually taken" (R84), since a list of events is finite. -/
def nextStep (s : State) : Host.Outcome State Fault Refusal :=
  match s.events with
  | [] => .next (onMcu mainLoop s)
  | e :: rest => runEvent e { s with events := rest }

end Sys2Proof.Machine
end

