-- ==== Sys2Proof/Machine/Fetch.lean ====
section
/-! DEFINITION. Where the machine finds its next instruction, for `State.withFetchWord` (log entry 23). The block
fetches nothing (R38, R85): a bus operation comes from the host as a bus cycle in the bank that is current, a command
from a complete request frame in `in_buf` that the main loop dispatches. -/

namespace Sys2Proof.Machine

/-- Bank `b` made current as a host does it (R332): `MODE` with its other bits as they are. -/
def selectBank (b : BankNo) (s : State) : State :=
  setMode ((s.cell s.curBank modeAddr &&& 0xC#4) ||| b.setWidth 4) s

/-- The next step serves the bus cycle of the decode word `w`. -/
def fetchBus (w : BitVec 11) (s : State) : State :=
  let t := selectBank (busBank w) s
  { t with
    handlersEnabled := true
    events :=
      .bus { write := busIsWrite w, a := busAddr w, d := busData w, timing := { hold := 0, undriven := 0 } } :: t.events }

/-- The next step dispatches the complete request frame whose command byte is `b` and whose payload is empty. -/
def fetchCmd (b : Byte) (s : State) : State :=
  let frame := frameBytes s.params b 0 []
  { s with
    handlersEnabled := true
    inb :=
      { s.inb with
        buf := Memory.writeBytes s.inb.buf 0 frame
        pos := frame.length, state := .queuedSlow, len := 0, expected := frame.length }
    events := .slowDispatch :: s.events }

/-- The instruction of an opcode-table row made the next one to run. -/
def fetchWord (nbits w : Nat) (s : State) : State :=
  if nbits ≤ 8 then fetchCmd (BitVec.ofNat 8 w) s else fetchBus (BitVec.ofNat 11 w) s

end Sys2Proof.Machine
end

