-- ==== Sys2Proof/Machine/Step.lean ====
section
/-! DEFINITION. One step of the machine, and the state in which a given instruction is the next to run. -/

namespace Sys2Proof.Machine

/-- One step: the oldest of the agents' steps still to be taken (R12, R383), else one of the main loop's (R84). -/
def step (s : State) : Host.Outcome State Fault Refusal := nextStep s

/-- `s` with the instruction of an opcode-table row where the next step finds it. -/
def State.withFetchWord (s : State) (nbits w : Nat) : State := fetchWord nbits w s

end Sys2Proof.Machine
end

