-- ==== Sys2Proof/Safety.lean ====
section
/-! DEFINITION. What holds in a good state: the invariants that the spec states (R26, R27, R28, R42, R43, R46, R49,
R51), the canonical form of the byte spaces, and the constraints on the parameters (R9). A machine that never stops
(R374) is `∃ t, step s = .next t`. After them, the words for what a step changes. -/

namespace Sys2Proof.Machine

/-- The channel registers of bank 1 (R37). -/
def isChannel (b : BankNo) (a : Nibble) : Bool := b == msgBank && (a == msgHiAddr || a == msgLoAddr)

/-- R26 (I1): no cell but the channel's holds a bit outside its write mask. (I3) and (I4) are its cases of mask 0. -/
def MasksHold (s : State) : Prop := ∀ b a, isChannel b a = false → s.cell b a &&& ~~~(wmask b a) = 0#4

/-- R26 (I2), R27, R28: `MODE` reads the same in every bank, and the bank number and the timer enable are its bits. -/
def ModeMirrored (s : State) : Prop :=
  ∀ b, s.cell b modeAddr = s.cell 0#2 modeAddr ∧ s.curBank = modeBank (s.cell b modeAddr) ∧
    s.timerEnabled = modeTimerEn (s.cell b modeAddr)

/-- R46 and R26 (I1): while a reply is active the channel cells show the byte at `out_pos / 2`; else they are 0 and so
is `out_pos`. -/
def ChannelShows (s : State) : Prop :=
  if s.outb.active then
    s.cell msgBank msgHiAddr = hiNibble (Memory.read s.outb.buf (s.outb.pos / 2)) ∧
      s.cell msgBank msgLoAddr = loNibble (Memory.read s.outb.buf (s.outb.pos / 2))
  else s.cell msgBank msgHiAddr = 0#4 ∧ s.cell msgBank msgLoAddr = 0#4 ∧ s.outb.pos = 0

/-- R45, R46: the bounds of the reply's length and cursor. -/
def ReplyBounds (s : State) : Prop :=
  s.outb.active = true →
    frameOverhead s.params ≤ s.outb.len ∧ s.outb.len ≤ bufSize s.params ∧ s.outb.pos < 2 * s.outb.len

/-- R42, R43: the assembler's state and its cursor. -/
def AssemblerInv (s : State) : Prop :=
  (s.inb.state = .idle ↔ s.inb.pos = 0) ∧
    (s.inb.state = .accumulating ↔ 1 ≤ s.inb.pos ∧ s.inb.pos < hdrLen s.params) ∧
    (s.inb.state = .headerKnown → hdrLen s.params ≤ s.inb.pos ∧ s.inb.pos < s.inb.expected) ∧
    (s.inb.state = .queuedSlow → s.inb.pos = s.inb.expected) ∧
    (s.inb.state = .headerKnown ∨ s.inb.state = .queuedSlow →
      s.inb.expected = hdrLen s.params + s.inb.len + crcLen ∧ s.inb.len < 2 ^ (8 * s.params.lenWidth))

/-- R51: the queues' capacities. -/
def QueueBounds (s : State) : Prop :=
  s.consIn.length ≤ s.params.consInCap ∧ s.consOut.length ≤ s.params.consOutCap

/-- R49: the hardware clock holds a legal date and its write protection is set between steps; R48: `last_sec`. -/
def ClockInv (s : State) : Prop := s.hw.time.legal = true ∧ s.hw.wp = true ∧ s.lastSec ≤ 59

/-- Every byte space has the canonical form. -/
def MemoryWf (s : State) : Prop := s.inb.buf.wf ∧ s.outb.buf.wf ∧ s.cfg.wf ∧ s.map.wf

/-- All of them. -/
def Inv (s : State) : Prop :=
  s.params.wf ∧ MasksHold s ∧ ModeMirrored s ∧ ChannelShows s ∧ ReplyBounds s ∧ AssemblerInv s ∧ QueueBounds s ∧
    ClockInv s ∧ MemoryWf s

/-! ## The terms in which a statement says what a step changes -/

/-- Every byte of the four byte spaces (R70) reads as before. -/
def BytesAsBefore (s t : State) : Prop :=
  ∀ x,
    Memory.read t.inb.buf x = Memory.read s.inb.buf x ∧ Memory.read t.outb.buf x = Memory.read s.outb.buf x ∧
      Memory.read t.cfg x = Memory.read s.cfg x ∧ Memory.read t.map x = Memory.read s.map x

/-- The cell holds `v` and every other cell is as before. -/
def StoresCell (b : BankNo) (a v : Nibble) (s t : State) : Prop :=
  t.cell b a = v ∧ ∀ b' a', ¬ (b' = b ∧ a' = a) → t.cell b' a' = s.cell b' a'

/-- From `s`, the reply (`code`, `data`) was composed (R105, R311): the buffer holds the frame from its first byte on and
its other bytes read as before, the cursor stands at 0, the deadline is one second away, the channel cells show the
first nibble pair, and every other cell is as before. -/
def Replied (code : Byte) (data : List Byte) (s t : State) : Prop :=
  let body := code :: (beBytes s.params.lenWidth data.length ++ data)
  let frame := [0xCD#8, 0x68#8] ++ body ++ beBytes 4 (crc32 s.params body).toNat
  t.outb.active = true ∧ t.outb.pos = 0 ∧ t.outb.len = frame.length ∧ t.outb.deadline = s.now + 1000 ∧
    (∀ x, Memory.read t.outb.buf x = if x < frame.length then frame.getD x 0#8 else Memory.read s.outb.buf x) ∧
    t.cell 1#2 0x0#4 = 0xC#4 ∧ t.cell 1#2 0x1#4 = 0xD#4 ∧
    ∀ b a, ¬ (b = 1#2 ∧ (a = 0x0#4 ∨ a = 0x1#4)) → t.cell b a = s.cell b a

/-- `crc_ok()` as R248 and R108 say it: the payload fits and the trailer is the CRC of all that lies between the magic
and the trailer. -/
abbrev FrameIsGood (s : State) : Prop :=
  s.inb.len ≤ s.params.payloadMax ∧
    beNat (Memory.readBytes s.inb.buf (3 + s.params.lenWidth + s.inb.len) 4) =
      (crc32 s.params (Memory.readBytes s.inb.buf 2 (1 + s.params.lenWidth + s.inb.len))).toNat

/-- `opt_ok()` as R249 and R115 say it: under `reject`, bits 7:6 of the command byte are 0. -/
abbrev OptionsAllowed (s : State) : Prop :=
  s.params.optPolicy = .reject → (Memory.read s.inb.buf 2).extractLsb' 6 2 = 0#2

/-- No step of the main loop is enabled (R205, R251, R252, R314). -/
def MainLoopAtRest (s : State) : Prop :=
  s.inb.state ≠ .queuedSlow ∧ ¬ ((s.timeDirty = true ∨ s.ramDirty = true) ∧ s.timerEnabled = true) ∧
    ¬ ((s.inb.state = .accumulating ∨ s.inb.state = .headerKnown) ∧ s.inb.deadline < s.now) ∧
    ¬ (s.outb.active = true ∧ s.outb.deadline < s.now)

/-- The block's protocol engines are at rest. -/
def AtRest (s : State) : Prop := s.inb.state = .idle ∧ s.outb.active = false

/-- The nibbles that `n` pairs of reads `RD 0x0`, `RD 0x1` in bank 1 return (R316), and the state after them. -/
def readPairs : Nat → State → Option (List Nibble × State)
  | 0, s => some ([], s)
  | n + 1, s =>
    match exec (.rdMsghi 0#4) s with
    | .next t =>
      match exec (.rdMsglo 0#4) t with
      | .next u => (readPairs n u).map (fun r => (t.bus.driven.toList ++ u.bus.driven.toList ++ r.1, r.2))
      | .fault _ => none
      | .refused _ => none
    | .fault _ => none
    | .refused _ => none

end Sys2Proof.Machine
end

