-- ==== Sys2Proof/Certificates/Slice0/Obligations.lean ====
section
/-! DEFINITION. The statements for the provers, one `def Obligations.<Name> : Prop` each; OBLIGATIONS.json lists them
with the rules they rest on. A docstring names the rule of spec/; where the rule carries a mark `[decision: D<n>]` or
`[derived: ...]` it says so: that clause is the spec's own choice or inference, which the model follows (log entry 13). -/

section

open Sys2Proof Sys2Proof.Config Sys2Proof.Machine

/-! ## Encoding -/

/-- Decode and encode agree: no operand of any instruction loses a bit in its word (R101, R106, R122). -/
def Obligations.EncodeThenDecodeEveryInstruction : Prop := ∀ i : Instr, wellFormed i = true → decode (encode i) = i

/-- Both opcode maps are total and each word is exactly one operation (R122; R103 is marked derived). -/
def Obligations.DecodeThenEncodeEveryWord : Prop := ∀ c : CodeWord, wellFormed (decode c) = true ∧ encode (decode c) = c

/-- The two opcode maps: the operations of each bank in address order (R103, marked derived from R22, R23, R141), and the
commands in the order the source lists the names, with the ones the fast path takes (R112, marked decision D9 and D14:
the numbers are the spec's own). -/
def Obligations.OpcodeMaps : Prop :=
  (∀ (bank : BankNo) (a d : Nibble),
    decode (.bus (bank ++ 0#1 ++ a ++ d)) =
        (if bank = 1#2 ∧ a = 0x0#4 then .rdMsghi d
         else if bank = 1#2 ∧ a = 0x1#4 then .rdMsglo d
         else .rdReg bank a d) ∧
      decode (.bus (bank ++ 1#1 ++ 0xD#4 ++ d)) = .wrMode bank d ∧
      decode (.bus (bank ++ 1#1 ++ 0xE#4 ++ d)) = .wrTest bank d ∧
      decode (.bus (bank ++ 1#1 ++ 0xF#4 ++ d)) = .wrReset bank d ∧
      (a.toNat ≤ 0xC →
        some (decode (.bus (0#2 ++ 1#1 ++ a ++ d))) =
            [Instr.wrS1 d, .wrS10 d, .wrMi1 d, .wrMi10 d, .wrH1 d, .wrH10 d, .wrDow d, .wrD1 d, .wrD10 d, .wrMo1 d,
              .wrMo10 d, .wrY1 d, .wrY10 d][a.toNat]? ∧
          some (decode (.bus (1#2 ++ 1#1 ++ a ++ d))) =
            [Instr.wrMsghi d, .wrMsglo d, .wrAmi1 d, .wrAmi10 d, .wrAh1 d, .wrAh10 d, .wrAdow d, .wrAd1 d, .wrAd10 d,
              .wrU9 d, .wrH24 d, .wrLeap d, .wrUc d][a.toNat]? ∧
          (2 ≤ bank.toNat → decode (.bus (bank ++ 1#1 ++ a ++ d)) = .wrRam bank a d))) ∧
  (∀ (opt : BitVec 2) (code : BitVec 6),
    (code.toNat ≤ 0x0C →
      some (decode (.cmd (opt ++ code))) =
        [Instr.cmdNull opt, .cmdNop opt, .cmdId opt, .cmdUptime opt, .cmdTestpatt opt, .cmdLoopback opt,
          .cmdConsOutput opt, .cmdConsInput opt, .cmdSet opt, .cmdGet opt, .cmdSetMap opt, .cmdGetMap opt,
          .cmdPollInput opt][code.toNat]?) ∧
      (0x0D ≤ code.toNat → decode (.cmd (opt ++ code)) = .cmdUnknown opt code) ∧
      (isFast (decode (.cmd (opt ++ code))) = true ↔ code.toNat = 0 ∨ code.toNat = 1 ∨ code.toNat = 6 ∨ code.toNat = 7))

/-- A few decode words and command bytes written out from the encodings of the rules decode to what they stand for
(R145, R143, R171, R178, R273, R290). A sanity statement. -/
def Obligations.WrittenWordsDecode : Prop :=
  decode (.bus 0b00100000101#11) = .wrS1 0x5#4 ∧ decode (.bus 0b01000000000#11) = .rdMsghi 0x0#4 ∧
    decode (.bus 0b11111001010#11) = .wrRam 3#2 0xC#4 0xA#4 ∧ decode (.bus 0b10111110011#11) = .wrReset 2#2 0x3#4 ∧
    decode (.cmd 0b01000001#8) = .cmdNop 1#2 ∧ decode (.cmd 0b00111111#8) = .cmdUnknown 0#2 0x3F#6

/-! ## The step -/

/-- A step that serves a bus cycle runs the instruction its decode word spells, with the bank that is current at the
falling edge and the lines sampled once (R72, R73; R101 is marked decision D34, D38). -/
def Obligations.BusStepRunsDecodedInstruction : Prop :=
  ∀ (s : State) (c : BusCycle) (rest : List Event),
    s.events = .bus c :: rest → s.handlersEnabled = true →
      step s =
        exec (decode (.bus (s.curBank ++ BitVec.ofBool c.write ++ c.a ++ c.d)))
          { s with events := rest, bus := { timing := c.timing, driven := none, sampled := none } }

/-- The main loop's dispatch of a queued frame: the first test that applies decides the status (a payload above
`PAYLOAD_MAX`, a trailer that is not the CRC of command, length and payload, option bits that the policy rejects), a good
frame runs the instruction its command byte spells, and the assembler is idle afterwards (R251, R248, marked decision
D12, D13; R249, R115, marked decision D15; R250). `FrameIsGood` and `OptionsAllowed` spell R248 and R249 out. -/
def Obligations.SlowDispatchAnswersInOrder : Prop :=
  ∀ (s : State) (rest : List Event),
    s.events = .slowDispatch :: rest → s.handlersEnabled = true → s.inb.state = .queuedSlow →
      ∃ u, step s = .next { u with inb := { u.inb with pos := 0, state := .idle } } ∧
        (if s.params.payloadMax < s.inb.len then
          Replied 0x04#8 [] s u ∧ u = { s with events := rest, bank := u.bank, outb := u.outb }
         else if ¬ FrameIsGood s then
          Replied 0x0B#8 [] s u ∧ u = { s with events := rest, bank := u.bank, outb := u.outb }
         else if ¬ OptionsAllowed s then
          Replied 0x02#8 [] s u ∧ u = { s with events := rest, bank := u.bank, outb := u.outb }
         else exec (decode (.cmd (Memory.read s.inb.buf 2))) { s with events := rest } = .next u)

/-- No stop: from every state the machine has a next state (R374, marked derived). And the main loop is fair: from every
state, after the steps still to be taken and as many of its own as are enabled, every step of the main loop has been
taken or is not enabled (R84), if the MCU runs. That a list of events is finite and that the main loop goes on when it is
empty is the model's choice (log entry 1). -/
def Obligations.NoStepStops : Prop :=
  (∀ s : State, ∃ t, step s = .next t) ∧
  ∀ s : State, ∃ n t, Host.Core.run Sys2Proof.core n s = .next t ∧ n ≤ s.events.length + 4 ∧ t.events = [] ∧
    (t.handlersEnabled = true → MainLoopAtRest t) ∧ step t = .next t

/-- Once the host is quiet, a dispatch, then a tick past both deadlines and of more than 1000 ms, then both timeouts, in
this order, leave the block at rest (R374's last sentence, marked derived from R252 and R314). The dispatch stands before
the tick: it may compose a reply, whose own deadline the tick of more than 1000 ms passes too. -/
def Obligations.QuietBlockComesToRest : Prop :=
  ∀ (s : State) (ms us : Nat) (rest : List Event),
    s.events = .slowDispatch :: .tick ms us :: .inTimeout :: .outTimeout :: rest → s.handlersEnabled = true →
      1000 < ms → 0 < us → s.inb.deadline < s.now + ms → s.outb.deadline < s.now + ms →
        ∃ t, Host.Core.run Sys2Proof.core 4 s = .next t ∧ AtRest t

/-- Who writes what (R388): no instruction, whatever its operands, touches the hardware clock, the backup, the time base,
the diagnostics, the host or the parameters; and a bus cycle, a wakeup or a step of the host leaves the clock, the backup
and the two stores alone, so that a host reaches them through the main loop only. The host and the MCU share nothing but
the bus (R402): only the host's own steps change the host, and what such a step does with the host and the lines is the
same at any `now`, which the host cannot read (R390, marked decision D36). -/
def Obligations.HandlersNeverWriteClockOrStores : Prop :=
  (∀ (i : Instr) (s t : State), exec i s = .next t →
    t.hw = s.hw ∧ t.nv = s.nv ∧ t.lastSec = s.lastSec ∧ t.now = s.now ∧ t.uptimeUs = s.uptimeUs ∧ t.diag = s.diag ∧
      t.host = s.host ∧ t.params = s.params ∧ t.handlersEnabled = s.handlersEnabled ∧ t.events = s.events) ∧
  (∀ (s t : State) (e : Event) (rest : List Event), s.events = e :: rest →
    ((∃ c, e = .bus c) ∨ e = .wakeup ∨ (∃ k tm, e = .hostStep k tm)) → step s = .next t →
      t.cfg = s.cfg ∧ t.map = s.map ∧ t.nv = s.nv ∧ t.hw = s.hw) ∧
  (∀ s t : State, step s = .next t → t.host ≠ s.host →
    ∃ e rest, s.events = e :: rest ∧
      ((∃ k tm, e = .hostStep k tm) ∨ (∃ cmd arg rm retry, e = .hostCall cmd arg rm retry) ∨ ∃ ms, e = .hostTick ms)) ∧
  ∀ (s t : State) (k : Nat) (tm : BusTiming) (rest : List Event) (n : Nat), s.events = .hostStep k tm :: rest →
    step s = .next t → ∃ u, step { s with now := n } = .next u ∧ u.host = t.host ∧ u.bus = t.bus

/-- The backup is written by the synchronizer's step alone, when it is enabled, and then holds the cookie (R216, R412);
the step is one of the list or, with the list empty, the main loop's own (log entry 1). -/
def Obligations.OnlySyncWritesTheBackup : Prop :=
  ∀ s t : State, step s = .next t → t.nv ≠ s.nv →
    (s.events = [] ∨ ∃ rest, s.events = .syncToHw :: rest) ∧ s.handlersEnabled = true ∧
      (s.timeDirty = true ∨ s.ramDirty = true) ∧ s.timerEnabled = true ∧
      t.nv.toList.head? = some 0x52503543#32

/-- Before BOOT has ended no cycle is served: a read samples the undriven lines, a write is lost (R414, marked decision
D33; log entry 10). -/
def Obligations.NoCycleIsServedBeforeBoot : Prop :=
  ∀ (s : State) (c : BusCycle) (rest : List Event),
    s.events = .bus c :: rest → s.handlersEnabled = false →
      ∃ t, step s = .next t ∧ t = { s with events := rest, bus := t.bus } ∧ t.bus.driven = none ∧
        t.bus.sampled = if c.write then none else some c.timing.undriven

/-! ## Invariants -/

/-- Every step keeps the invariants of the bank: the masks, the mirror of `MODE`, and the channel cells (R26 I1 to I4,
marked derived; R27, R28, R46). -/
def Obligations.StepKeepsBankInvariants : Prop :=
  ∀ s t : State, MasksHold s → ModeMirrored s → ChannelShows s → step s = .next t →
    MasksHold t ∧ ModeMirrored t ∧ ChannelShows t

/-- Every step keeps the assembler's cursor inside the range of its state (R42, marked derived; R43). -/
def Obligations.StepKeepsAssemblerInvariant : Prop :=
  ∀ s t : State, AssemblerInv s → step s = .next t → AssemblerInv t

/-- Every step keeps the reply's length and cursor in bounds: no reply overflows the buffer (R45, R46; R292 is marked
derived). -/
def Obligations.StepKeepsReplyBounds : Prop :=
  ∀ s t : State, s.params.blockWf → ReplyBounds s → step s = .next t → t.params = s.params ∧ ReplyBounds t

/-- Every step keeps the queues within their capacities (R51, marked decision D24), the hardware clock at a legal date with
its write protection set (R49, marked decision D29) and `last_sec` below 60 (R48), and the byte spaces in their canonical
form. The canonical form is no rule of the spec: it is how the model represents a byte space (DESIGN CHOICE, log
entry 7). -/
def Obligations.StepKeepsQueuesClockAndMemory : Prop :=
  ∀ s t : State, QueueBounds s → ClockInv s → MemoryWf s → step s = .next t → QueueBounds t ∧ ClockInv t ∧ MemoryWf t

/-- The state after reset meets every invariant. It rests on the reset values of log entries 3 to 6. -/
def Obligations.ResetMeetsEveryInvariant : Prop := Inv State.reset

/-! ## Level 1: reads -/

/-- RD_REG: the cell is driven and nothing else changes; `TEST`, `RESET`, `U9`, `UC` read 0 and `MODE` reads the same in
every bank (R142). -/
def Obligations.ReadRegisterReturnsTheCell : Prop :=
  ∀ (bank : BankNo) (a d : Nibble) (s : State), ¬ (bank = 1#2 ∧ a.toNat ≤ 1) →
    encode (.rdReg bank a d) = .bus (bank ++ 0#1 ++ a ++ d) ∧
      ∃ t, exec (.rdReg bank a d) s = .next t ∧ t.bus.driven = some (s.cell bank a) ∧
        t = { s with bus := t.bus } ∧ BytesAsBefore s t ∧
        (MasksHold s → a = 0xE#4 ∨ a = 0xF#4 ∨ bank = 1#2 ∧ (a = 0x9#4 ∨ a = 0xC#4) → t.bus.driven = some 0#4) ∧
        (ModeMirrored s → a = 0xD#4 → t.bus.driven = some (s.cell 0#2 0xD#4))

/-- What the host samples in a read: the driven nibble, or, when it holds the cycle for more than `READ_POLL_CAP` polls,
whatever the undriven lines show, a free value (R80, R421, marked decision D34; U6, log entry 9). -/
def Obligations.HeldReadSamplesUndrivenLines : Prop :=
  ∀ (i : Instr) (s : State), (∃ bank a d, i = .rdReg bank a d) ∨ (∃ d, i = .rdMsghi d) ∨ (∃ d, i = .rdMsglo d) →
    ∃ t, exec i s = .next t ∧
      (s.bus.timing.hold ≤ s.params.readPollCap → t.bus.sampled = t.bus.driven) ∧
      (s.params.readPollCap < s.bus.timing.hold → t.bus.sampled = some s.bus.timing.undriven)

/-- RD_MSGHI: the value is the cell's, the cursor moves on from an even position of an active reply and from no other
(R143, marked decision D19). -/
def Obligations.ReadMsghiMovesTheCursor : Prop :=
  ∀ (d : Nibble) (s : State),
    encode (.rdMsghi d) = .bus (1#2 ++ 0#1 ++ 0x0#4 ++ d) ∧
      ∃ t, exec (.rdMsghi d) s = .next t ∧ t.bus.driven = some (s.cell 1#2 0x0#4) ∧
        t.outb.pos = (if s.outb.active = true ∧ s.outb.pos % 2 = 0 then s.outb.pos + 1 else s.outb.pos) ∧
        t = { s with bus := t.bus, outb := { s.outb with pos := t.outb.pos } } ∧ BytesAsBefore s t ∧
        (ChannelShows s → s.outb.active = false → t.bus.driven = some 0#4)

/-- RD_MSGLO: at an odd position of an active reply the cursor moves on and the cells take the next byte, or the reply
ends and they read 0; elsewhere nothing changes (R144, R313, marked decision D19; R312). -/
def Obligations.ReadMsgloLoadsTheNextByte : Prop :=
  ∀ (d : Nibble) (s : State),
    encode (.rdMsglo d) = .bus (1#2 ++ 0#1 ++ 0x1#4 ++ d) ∧
      ∃ t, exec (.rdMsglo d) s = .next t ∧ t.bus.driven = some (s.cell 1#2 0x1#4) ∧ BytesAsBefore s t ∧
        (∀ b a, ¬ (b = 1#2 ∧ a.toNat ≤ 1) → t.cell b a = s.cell b a) ∧
        (if s.outb.active = true ∧ s.outb.pos % 2 = 1 then
          if s.outb.pos + 1 = 2 * s.outb.len then
            t.cell 1#2 0x0#4 = 0#4 ∧ t.cell 1#2 0x1#4 = 0#4 ∧
              t = { s with bus := t.bus, bank := t.bank, outb := { s.outb with active := false, pos := 0, len := 0 } }
          else
            t.cell 1#2 0x0#4 = (Memory.read s.outb.buf ((s.outb.pos + 1) / 2)).extractLsb' 4 4 ∧
              t.cell 1#2 0x1#4 = (Memory.read s.outb.buf ((s.outb.pos + 1) / 2)).extractLsb' 0 4 ∧
              t = { s with bus := t.bus, bank := t.bank, outb := { s.outb with pos := s.outb.pos + 1 } }
         else t = { s with bus := t.bus })

/-- The nibbles a well-behaved host reads: from the start of a reply, `2 * out_len` reads return the bytes of the reply
in order, high nibble first; then the reply is over and both cells read 0 (R316, marked derived; R75, R109). -/
def Obligations.ReplyReadsBackByteForByte : Prop :=
  ∀ s : State, ChannelShows s → s.outb.active = true → s.outb.pos = 0 →
    ∃ t, readPairs s.outb.len s =
        some
          ((Memory.readBytes s.outb.buf 0 s.outb.len).flatMap (fun b => [b.extractLsb' 4 4, b.extractLsb' 0 4]), t) ∧
      (0 < s.outb.len → t.outb.active = false ∧ t.cell 1#2 0x0#4 = 0#4 ∧ t.cell 1#2 0x1#4 = 0#4)

/-! ## Level 1: writes of cells -/

/-- WR_S1, WR_MI1, WR_H1, WR_D1, WR_MO1, WR_Y1: every nibble is stored whole and sets `time_dirty`, in no other cell and
no other field (R145, R147, R149, R152, R154, R156). A digit that makes its field illegal leaves a bank without a date:
that a digit above 9 does, in each of the six fields, is R201, the spec's own choice (marked decision D28, log entry 13);
that an hour above 23, day 00, month 00 and a month above 12 do is R149, R152, R154 with R203 (marked decision D28). -/
def Obligations.FullNibbleTimeWrites : Prop :=
  ∀ (d : Nibble) (s : State),
    ∀ e ∈ ([(.wrS1 d, 0x0#4), (.wrMi1 d, 0x2#4), (.wrH1 d, 0x4#4), (.wrD1 d, 0x7#4), (.wrMo1 d, 0x9#4),
            (.wrY1 d, 0xB#4)] : List (Instr × Nibble)),
      encode e.1 = .bus (0#2 ++ 1#1 ++ e.2 ++ d) ∧
        ∃ t, exec e.1 s = .next t ∧ StoresCell 0#2 e.2 d s t ∧ t.timeDirty = true ∧
          t = { s with bank := t.bank, timeDirty := true } ∧ BytesAsBefore s t ∧
          (0x9 < d.toNat → emuFields t = none) ∧
          (e.2 = 0x4#4 → 23 < 10 * (s.cell 0#2 0x5#4).toNat + d.toNat → emuFields t = none) ∧
          (e.2 = 0x7#4 → 10 * (s.cell 0#2 0x8#4).toNat + d.toNat = 0 → emuFields t = none) ∧
          (e.2 = 0x9#4 → 10 * (s.cell 0#2 0xA#4).toNat + d.toNat = 0 → emuFields t = none) ∧
          (e.2 = 0x9#4 → 12 < 10 * (s.cell 0#2 0xA#4).toNat + d.toNat → emuFields t = none)

/-- The other writes of the time registers: the nibble is stored through the register's mask and sets `time_dirty`, in no
other cell and no other field (R146, R148, R150, R151, R153, R155, R157: the masks are the spec's decision D5, the
two-digit year D29). -/
def Obligations.MaskedTimeWrites : Prop :=
  ∀ (d : Nibble) (s : State),
    ∀ e ∈ ([(.wrS10 d, 0x1#4, 0x7#4), (.wrMi10 d, 0x3#4, 0x7#4), (.wrH10 d, 0x5#4, 0x3#4), (.wrDow d, 0x6#4, 0x7#4),
            (.wrD10 d, 0x8#4, 0x3#4), (.wrMo10 d, 0xA#4, 0x1#4), (.wrY10 d, 0xC#4, 0xF#4)] :
            List (Instr × Nibble × Nibble)),
      encode e.1 = .bus (0#2 ++ 1#1 ++ e.2.1 ++ d) ∧
        ∃ t, exec e.1 s = .next t ∧ StoresCell 0#2 e.2.1 (d &&& e.2.2) s t ∧
          t = { s with bank := t.bank, timeDirty := true } ∧ BytesAsBefore s t

/-- WR_AMI1, WR_AH1, WR_AD1: every nibble is stored whole, with no range check, and sets `time_dirty`, in no other cell
and no other field (R160, R162, R165). -/
def Obligations.FullNibbleAlarmWrites : Prop :=
  ∀ (d : Nibble) (s : State),
    ∀ e ∈ ([(.wrAmi1 d, 0x2#4), (.wrAh1 d, 0x4#4), (.wrAd1 d, 0x7#4)] : List (Instr × Nibble)),
      encode e.1 = .bus (1#2 ++ 1#1 ++ e.2 ++ d) ∧
        ∃ t, exec e.1 s = .next t ∧ StoresCell 1#2 e.2 d s t ∧ t.timeDirty = true ∧
          t = { s with bank := t.bank, timeDirty := true } ∧ BytesAsBefore s t

/-- The other writes of the alarm and setting registers: the nibble is stored through the register's mask (0 for the
unused `U9` and `UC`) and sets `time_dirty`, in no other cell and no other field (R161, R163, R164, R166 to R170: the
masks are the spec's decision D5). -/
def Obligations.MaskedAlarmAndSettingWrites : Prop :=
  ∀ (d : Nibble) (s : State),
    ∀ e ∈ ([(.wrAmi10 d, 0x3#4, 0x7#4), (.wrAh10 d, 0x5#4, 0x3#4), (.wrAdow d, 0x6#4, 0x7#4),
            (.wrAd10 d, 0x8#4, 0x3#4), (.wrU9 d, 0x9#4, 0x0#4), (.wrH24 d, 0xA#4, 0x1#4), (.wrLeap d, 0xB#4, 0x3#4),
            (.wrUc d, 0xC#4, 0x0#4)] : List (Instr × Nibble × Nibble)),
      encode e.1 = .bus (1#2 ++ 1#1 ++ e.2.1 ++ d) ∧
        ∃ t, exec e.1 s = .next t ∧ StoresCell 1#2 e.2.1 (d &&& e.2.2) s t ∧
          t = { s with bank := t.bank, timeDirty := true } ∧ BytesAsBefore s t

/-- WR_RAM: all sixteen values are stored, in that bank's cell alone, and `ram_dirty` is set, also when the cell held the
value (R171). -/
def Obligations.RamWrites : Prop :=
  ∀ (bank : BankNo) (a d : Nibble) (s : State), 2 ≤ bank.toNat → a.toNat ≤ 0xC →
    encode (.wrRam bank a d) = .bus (bank ++ 1#1 ++ a ++ d) ∧
      ∃ t, exec (.wrRam bank a d) s = .next t ∧ StoresCell bank a d s t ∧ t.ramDirty = true ∧
        t = { s with bank := t.bank, ramDirty := true } ∧ BytesAsBefore s t

/-! ## Level 1: writes of the channel and the control registers -/

/-- WR_MSGHI: the latch takes the nibble, whatever the assembler's state, and nothing else changes. WR_MSGLO: the byte
`16 * in_hi + d` goes to the assembler and the latch is cleared; while a frame is queued the byte is dropped and only the
latch changes (R172, R173, R243, marked decision D2, D3, D4, D16). -/
def Obligations.ChannelWritesFeedTheAssembler : Prop :=
  ∀ (d : Nibble) (s : State),
    (encode (.wrMsghi d) = .bus (1#2 ++ 1#1 ++ 0x0#4 ++ d) ∧
      exec (.wrMsghi d) s = .next { s with inb := { s.inb with hi := d } }) ∧
    encode (.wrMsglo d) = .bus (1#2 ++ 1#1 ++ 0x1#4 ++ d) ∧
      exec (.wrMsglo d) s =
        .next (asmPush (BitVec.ofNat 8 (16 * s.inb.hi.toNat + d.toNat)) { s with inb := { s.inb with hi := 0#4 } }) ∧
      (s.inb.state = .queuedSlow → exec (.wrMsglo d) s = .next { s with inb := { s.inb with hi := 0#4 } })

/-- The magic phase: a byte that continues the match is stored and moves the cursor; any other resets it, and is itself
the start of a new match when it is the first magic byte; the deadline is armed when a match starts (R244). -/
def Obligations.MagicPhaseResynchronizes : Prop :=
  ∀ (b : Byte) (s : State), s.inb.state ≠ .queuedSlow → s.inb.pos ≤ 1 →
    ∃ t, asmPush b s = t ∧
      t = { s with
            inb := { s.inb with
                     buf := t.inb.buf, pos := t.inb.pos, state := t.inb.state, deadline := t.inb.deadline } } ∧
      (if b = (if s.inb.pos = 0 then 0xCD#8 else 0x68#8) then
        t.inb.pos = s.inb.pos + 1 ∧
          (∀ x, Memory.read t.inb.buf x = if x = s.inb.pos then b else Memory.read s.inb.buf x) ∧
          (if s.inb.pos = 0 then t.inb.state = .accumulating ∧ t.inb.deadline = s.now + 1000
           else t.inb.state = s.inb.state ∧ t.inb.deadline = s.inb.deadline)
       else if b = 0xCD#8 then
        t.inb.pos = 1 ∧ t.inb.state = .accumulating ∧ t.inb.deadline = s.now + 1000 ∧
          ∀ x, Memory.read t.inb.buf x = if x = 0 then b else Memory.read s.inb.buf x
       else
        t.inb.pos = 0 ∧ t.inb.state = .idle ∧ t.inb.deadline = s.inb.deadline ∧
          ∀ x, Memory.read t.inb.buf x = Memory.read s.inb.buf x)

/-- A byte after the magic: it is counted, and stored if the buffer has room; then the header becomes known, or the frame
is complete, and a complete good frame of a fast command runs at once while any other is queued (R242, R246, R247; R245,
R248 and R249 are marked decision D12, D13, D14, and R115 D15: `FrameIsGood` and `OptionsAllowed` spell them out). -/
def Obligations.BytesAfterTheMagic : Prop :=
  ∀ (b : Byte) (s : State), s.inb.state ≠ .queuedSlow → 2 ≤ s.inb.pos →
    ∃ v, v = { s with inb := { s.inb with buf := v.inb.buf, pos := s.inb.pos + 1 } } ∧
      (∀ x, Memory.read v.inb.buf x =
        if x = s.inb.pos ∧ s.inb.pos < bufSize s.params then b else Memory.read s.inb.buf x) ∧
      (if s.inb.pos + 1 = hdrLen s.params then
        let n := beNat (Memory.readBytes v.inb.buf 3 s.params.lenWidth)
        asmPush b s =
          { v with inb := { v.inb with len := n, expected := hdrLen s.params + n + 4, state := .headerKnown } }
       else if s.inb.state = .headerKnown ∧ s.inb.pos + 1 = s.inb.expected then
        if FrameIsGood v ∧ OptionsAllowed v ∧ (Memory.read v.inb.buf 2 &&& 0x3F#8).toNat ∈ [0x00, 0x01, 0x06, 0x07] then
          ∃ w, exec (decode (.cmd (Memory.read v.inb.buf 2))) v = .next w ∧
            asmPush b s = { w with inb := { w.inb with pos := 0, state := .idle } }
        else asmPush b s = { v with inb := { v.inb with state := .queuedSlow } }
       else asmPush b s = v)

/-- WR_MODE: the nibble stands in the `MODE` cell of all four banks, its low two bits are the bank and its top bit the
timer enable; nothing else changes, no dirty flag either (R176, marked decision D6). -/
def Obligations.ModeWriteSelectsTheBank : Prop :=
  ∀ (bank : BankNo) (d : Nibble) (s : State),
    encode (.wrMode bank d) = .bus (bank ++ 1#1 ++ 0xD#4 ++ d) ∧
      ∃ t, exec (.wrMode bank d) s = .next t ∧
        (∀ b a, t.cell b a = if a = 0xD#4 then d else s.cell b a) ∧
        t.curBank.toNat = d.toNat % 4 ∧ t.timerEnabled = decide (8 ≤ d.toNat) ∧
        t = { s with bank := t.bank, curBank := t.curBank, timerEnabled := t.timerEnabled } ∧ BytesAsBefore s t

/-- WR_TEST: no value has any effect, and `TEST` reads 0 in every bank (R177). -/
def Obligations.TestWriteDoesNothing : Prop :=
  ∀ (bank : BankNo) (d : Nibble) (s : State),
    encode (.wrTest bank d) = .bus (bank ++ 1#1 ++ 0xE#4 ++ d) ∧ exec (.wrTest bank d) s = .next s ∧
      (MasksHold s → ∀ b x, ∃ t, exec (.rdReg b 0xE#4 x) s = .next t ∧ t.bus.driven = some 0#4)

/-- WR_RESET: bit 0 clears the seven alarm digits and sets `time_dirty`, bit 1 resets the protocol state and the channel
cells, bits 3:2 are ignored, and nothing else changes (R178, R179, R180, marked decision D7, D8, D41). -/
def Obligations.ResetWriteRunsItsActions : Prop :=
  ∀ (bank : BankNo) (d : Nibble) (s : State),
    encode (.wrReset bank d) = .bus (bank ++ 1#1 ++ 0xF#4 ++ d) ∧
      ∃ t, exec (.wrReset bank d) s = .next t ∧
        (∀ b a, t.cell b a =
          if b = 1#2 ∧ d.toNat % 2 = 1 ∧ 2 ≤ a.toNat ∧ a.toNat ≤ 8 then 0#4
          else if b = 1#2 ∧ d.toNat / 2 % 2 = 1 ∧ a.toNat ≤ 1 then 0#4
          else s.cell b a) ∧
        t.timeDirty = (s.timeDirty || decide (d.toNat % 2 = 1)) ∧
        (if d.toNat / 2 % 2 = 1 then
          t.inb = { s.inb with hi := 0#4, pos := 0, state := .idle } ∧
            t.outb = { s.outb with active := false, pos := 0, len := 0 }
         else t.inb = s.inb ∧ t.outb = s.outb) ∧
        t = { s with bank := t.bank, timeDirty := t.timeDirty, inb := t.inb, outb := t.outb } ∧ BytesAsBefore s t

/-! ## Level 2: commands. Each statement is about every state, so about every payload. -/

/-- NULL: no reply is composed and nothing changes, so a waiting reply stays (R272, marked decision D20). -/
def Obligations.NullComposesNoReply : Prop :=
  ∀ (opt : BitVec 2) (s : State), encode (.cmdNull opt) = .cmd (opt ++ 0x00#6) ∧ exec (.cmdNull opt) s = .next s

/-- NOP: OK with an empty payload, whatever the request's payload; nothing but the reply changes (R273). -/
def Obligations.NopAnswersOk : Prop :=
  ∀ (opt : BitVec 2) (s : State),
    encode (.cmdNop opt) = .cmd (opt ++ 0x01#6) ∧ isFast (.cmdNop opt) = true ∧
      ∃ t, exec (.cmdNop opt) s = .next t ∧ Replied 0x00#8 [] s t ∧ t = { s with bank := t.bank, outb := t.outb }

/-- ID: OK with the 88 bytes of the fixed layout (R274, R275; the byte order, the padding and the zero fill are marked
decision D21, D22). -/
def Obligations.IdAnswersTheFixedLayout : Prop :=
  ∀ (opt : BitVec 2) (s : State), s.params.blockWf →
    encode (.cmdId opt) = .cmd (opt ++ 0x02#6) ∧
      ∃ t data, exec (.cmdId opt) s = .next t ∧ Replied 0x00#8 data s t ∧ t = { s with bank := t.bank, outb := t.outb } ∧
        data.length = 88 ∧
        beNat (data.take 2) = s.params.idVersion0.toNat ∧ beNat ((data.drop 2).take 2) = s.params.idVersion1.toNat ∧
        (data.drop 4).take 4 = s.params.idDate.toList ∧ (data.drop 8).take 4 = s.params.idTime.toList ∧
        (data.drop 12).take 24 = s.params.idSerial ++ List.replicate (24 - s.params.idSerial.length) 0#8 ∧
        beNat ((data.drop 36).take 2) = s.params.idFeatures.toNat ∧ (data.drop 38).take 2 = [0x00#8, 0x01#8] ∧
        (data.drop 40).take 16 = s.params.boardName ++ List.replicate (16 - s.params.boardName.length) 0#8 ∧
        data.drop 56 = List.replicate 32 0#8

/-- UPTIME: OK with the 64-bit time since reset, most significant byte first (R276, marked decision D21, D36). TICK: both
clocks advance by the given positive amounts and nothing else changes, so that a later UPTIME answers a strictly greater
value, until the 64 bits wrap (R47, R276, marked decision D36; the wrap is log entry 20); a pair of amounts with a 0 in
it is no step of the agent (log entry 21). -/
def Obligations.UptimeAnswersTheTime : Prop :=
  (∀ (opt : BitVec 2) (s : State),
    encode (.cmdUptime opt) = .cmd (opt ++ 0x03#6) ∧
      ∃ t data, exec (.cmdUptime opt) s = .next t ∧ Replied 0x00#8 data s t ∧
        t = { s with bank := t.bank, outb := t.outb } ∧ data.length = 8 ∧ beNat data = s.uptimeUs.toNat) ∧
  ∀ (s : State) (ms us : Nat) (rest : List Event), s.events = .tick ms us :: rest →
    if 0 < ms ∧ 0 < us then
      ∃ t, step s = .next t ∧ t = { s with events := rest, now := s.now + ms, uptimeUs := t.uptimeUs } ∧
        t.uptimeUs.toNat = (s.uptimeUs.toNat + us) % 2 ^ 64 ∧
        (s.uptimeUs.toNat + us < 2 ^ 64 → s.uptimeUs.toNat < t.uptimeUs.toNat)
    else step s = .next { s with events := rest }

/-- TESTPATT: OK with the fixed 24-byte sequence, whatever the request's payload (R278). -/
def Obligations.TestpattAnswersTheSequence : Prop :=
  ∀ (opt : BitVec 2) (s : State),
    encode (.cmdTestpatt opt) = .cmd (opt ++ 0x04#6) ∧ isFast (.cmdTestpatt opt) = false ∧
      ∃ t, exec (.cmdTestpatt opt) s = .next t ∧ t = { s with bank := t.bank, outb := t.outb } ∧
        Replied 0x00#8
          [0xAA#8, 0x55#8, 0xCC#8, 0x33#8, 0xEE#8, 0x11#8, 0xFF#8, 0x00#8, 0x01#8, 0x02#8, 0x04#8, 0x08#8, 0x10#8,
            0x20#8, 0x40#8, 0x80#8, 0xFE#8, 0xFD#8, 0xFB#8, 0xF7#8, 0xEF#8, 0xDF#8, 0xBF#8, 0x7F#8] s t

/-- LOOPBACK: OK with the request's payload byte for byte, the empty one included (R279, marked decision D23). -/
def Obligations.LoopbackEchoesThePayload : Prop :=
  ∀ (opt : BitVec 2) (s : State),
    encode (.cmdLoopback opt) = .cmd (opt ++ 0x05#6) ∧
      ∃ t, exec (.cmdLoopback opt) s = .next t ∧ t = { s with bank := t.bank, outb := t.outb } ∧
        Replied 0x00#8 (Memory.readBytes s.inb.buf (hdrLen s.params) s.inb.len) s t

/-- CONS_OUTPUT: OK with the oldest bytes of the queue, at most `CHUNK_MAX`, which leave it; the others stay in order
(R280, marked decision D14, D24). CONSOLE puts bytes behind those of the queue, up to its capacity, and changes nothing
else (R51, R399, marked decision D24; that of too many bytes the first ones stay is log entry 19). -/
def Obligations.ConsOutputDrainsTheQueue : Prop :=
  (∀ (opt : BitVec 2) (s : State),
    encode (.cmdConsOutput opt) = .cmd (opt ++ 0x06#6) ∧
      ∃ t data, exec (.cmdConsOutput opt) s = .next t ∧ Replied 0x00#8 data s t ∧
        data.length = min s.consOut.length s.params.chunkMax ∧ data ++ t.consOut = s.consOut ∧
        t = { s with bank := t.bank, outb := t.outb, consOut := t.consOut }) ∧
  ∀ (s : State) (bytes : List Byte) (rest : List Event), s.events = .consoleOut bytes :: rest →
    s.handlersEnabled = true → QueueBounds s →
      ∃ t kept dropped, step s = .next t ∧ t = { s with events := rest, consOut := t.consOut } ∧
        bytes = kept ++ dropped ∧ t.consOut = s.consOut ++ kept ∧ t.consOut.length ≤ s.params.consOutCap ∧
        (s.consOut.length + bytes.length ≤ s.params.consOutCap → kept = bytes) ∧
        (s.params.consOutCap ≤ s.consOut.length + bytes.length → t.consOut.length = s.params.consOutCap)

/-- CONS_INPUT: all of the payload is appended and the answer is OK, or none of it and the answer is FAIL (R281, marked
decision D24, D27). CONSOLE takes bytes from the head of the queue, leaves the others in order, and changes nothing else
(R51, R399, marked decision D24). -/
def Obligations.ConsInputTakesAllOrNothing : Prop :=
  (∀ (opt : BitVec 2) (s : State),
    encode (.cmdConsInput opt) = .cmd (opt ++ 0x07#6) ∧
      ∃ t, exec (.cmdConsInput opt) s = .next t ∧
        (if s.consIn.length + s.inb.len ≤ s.params.consInCap then
          Replied 0x00#8 [] s t ∧ t.consIn = s.consIn ++ Memory.readBytes s.inb.buf (hdrLen s.params) s.inb.len
         else Replied 0x01#8 [] s t ∧ t.consIn = s.consIn) ∧
        t = { s with bank := t.bank, outb := t.outb, consIn := t.consIn }) ∧
  ∀ (s : State) (n : Nat) (rest : List Event), s.events = .consoleIn n :: rest → s.handlersEnabled = true →
    ∃ t taken, step s = .next t ∧ t = { s with events := rest, consIn := t.consIn } ∧
      taken ++ t.consIn = s.consIn ∧ taken.length = min n s.consIn.length

/-- SET and SET_MAP: a short payload answers BADLEN and a range past the store BADARG, with nothing written; else the
data bytes stand at the offset, every other byte of the store reads as before, and the answer is OK (R285, R287, marked
decision D25). -/
def Obligations.SetStoresItsBytes : Prop :=
  ∀ (opt : BitVec 2) (s : State),
    let p := Memory.readBytes s.inb.buf (hdrLen s.params) s.inb.len
    let off := 256 * (p.getD 0 0#8).toNat + (p.getD 1 0#8).toNat
    encode (.cmdSet opt) = .cmd (opt ++ 0x08#6) ∧ encode (.cmdSetMap opt) = .cmd (opt ++ 0x0A#6) ∧
      (∃ t, exec (.cmdSet opt) s = .next t ∧
        (if p.length < 2 then Replied 0x04#8 [] s t ∧ t = { s with bank := t.bank, outb := t.outb }
         else if s.params.cfgSize < off + (p.length - 2) then
          Replied 0x03#8 [] s t ∧ t = { s with bank := t.bank, outb := t.outb }
         else
          Replied 0x00#8 [] s t ∧ t = { s with bank := t.bank, outb := t.outb, cfg := t.cfg } ∧
            ∀ x, Memory.read t.cfg x =
              if off ≤ x ∧ x < off + (p.length - 2) then p.getD (x - off + 2) 0#8 else Memory.read s.cfg x)) ∧
      (∃ t, exec (.cmdSetMap opt) s = .next t ∧
        (if p.length < 2 then Replied 0x04#8 [] s t ∧ t = { s with bank := t.bank, outb := t.outb }
         else if s.params.mapSize < off + (p.length - 2) then
          Replied 0x03#8 [] s t ∧ t = { s with bank := t.bank, outb := t.outb }
         else
          Replied 0x00#8 [] s t ∧ t = { s with bank := t.bank, outb := t.outb, map := t.map } ∧
            ∀ x, Memory.read t.map x =
              if off ≤ x ∧ x < off + (p.length - 2) then p.getD (x - off + 2) 0#8 else Memory.read s.map x))

/-- GET and GET_MAP: a payload that is not 4 bytes answers BADLEN and an offset past the store BADARG; else the answer is
OK with the bytes from the offset on, as many as were asked for, the store has and one reply may hold (R286, R288, marked
decision D25). Nothing but the reply changes. -/
def Obligations.GetReadsItsBytes : Prop :=
  ∀ (opt : BitVec 2) (s : State),
    let p := Memory.readBytes s.inb.buf (hdrLen s.params) s.inb.len
    let off := 256 * (p.getD 0 0#8).toNat + (p.getD 1 0#8).toNat
    let cnt := 256 * (p.getD 2 0#8).toNat + (p.getD 3 0#8).toNat
    encode (.cmdGet opt) = .cmd (opt ++ 0x09#6) ∧ encode (.cmdGetMap opt) = .cmd (opt ++ 0x0B#6) ∧
      (∃ t, exec (.cmdGet opt) s = .next t ∧ t = { s with bank := t.bank, outb := t.outb } ∧
        (if p.length ≠ 4 then Replied 0x04#8 [] s t
         else if s.params.cfgSize < off then Replied 0x03#8 [] s t
         else
          ∃ data, Replied 0x00#8 data s t ∧
            data.length = min cnt (min (s.params.cfgSize - off) s.params.chunkMax) ∧
            ∀ i, i < data.length → data.getD i 0#8 = Memory.read s.cfg (off + i))) ∧
      (∃ t, exec (.cmdGetMap opt) s = .next t ∧ t = { s with bank := t.bank, outb := t.outb } ∧
        (if p.length ≠ 4 then Replied 0x04#8 [] s t
         else if s.params.mapSize < off then Replied 0x03#8 [] s t
         else
          ∃ data, Replied 0x00#8 data s t ∧
            data.length = min cnt (min (s.params.mapSize - off) s.params.chunkMax) ∧
            ∀ i, i < data.length → data.getD i 0#8 = Memory.read s.map (off + i)))

/-- POLL_INPUT: what the environment answers: OK with the data it lists for the payload, or NODATA with none (R289, marked
decision D26; that the environment is a table is the model's choice, log entry 11). -/
def Obligations.PollInputAnswersTheEnvironment : Prop :=
  ∀ (opt : BitVec 2) (s : State),
    let p := Memory.readBytes s.inb.buf (hdrLen s.params) s.inb.len
    encode (.cmdPollInput opt) = .cmd (opt ++ 0x0C#6) ∧
      ∃ t, exec (.cmdPollInput opt) s = .next t ∧ t = { s with bank := t.bank, outb := t.outb } ∧
        ((∀ e ∈ s.params.pollTable, e.1 ≠ p) → Replied 0x05#8 [] s t) ∧
        (∀ before after data, s.params.pollTable = before ++ (p, data) :: after → (∀ e ∈ before, e.1 ≠ p) →
          Replied 0x00#8 data s t)

/-- UNKNOWN: UNKCMD with an empty payload, for every code from 0x0D to 0x3F; nothing but the reply changes (R290). -/
def Obligations.UnknownAnswersUnkcmd : Prop :=
  ∀ (opt : BitVec 2) (code : BitVec 6) (s : State), 0x0D ≤ code.toNat →
    encode (.cmdUnknown opt code) = .cmd (opt ++ code) ∧ isFast (.cmdUnknown opt code) = false ∧
      ∃ t, exec (.cmdUnknown opt code) s = .next t ∧ Replied 0x02#8 [] s t ∧
        t = { s with bank := t.bank, outb := t.outb }

/-! ## Frames and the CRC -/

/-- CRC sensitivity: a change confined to one byte, so every single-bit error, changes the CRC of a message of any length,
under the default `crc32` (R253, marked derived; R108, marked decision D10; log entry 12). -/
def Obligations.CrcDetectsEveryChangedByte : Prop :=
  ∀ (p : Params) (before after : List Byte) (b b' : Byte), p.crc = .isoHdlc → b ≠ b' →
    crc32 p (before ++ b :: after) ≠ crc32 p (before ++ b' :: after)

/-- Round trip: from idle, pushing the bytes of a request frame brings the assembler to the instant of completion with
exactly those bytes in its buffer, the CRC good, and the command and the argument as sent, for any `crc32` (R253, marked
derived; `FrameIsGood` is R248 spelled out). -/
def Obligations.RequestFrameRoundTrips : Prop :=
  ∀ (s : State) (cmd : Byte) (arg : List Byte),
    s.params.blockWf → s.inb.state = .idle → s.inb.pos = 0 → arg.length ≤ s.params.payloadMax →
      let body := cmd :: (beBytes s.params.lenWidth arg.length ++ arg)
      let frame := [0xCD#8, 0x68#8] ++ body ++ beBytes 4 (crc32 s.params body).toNat
      ∃ u, frame.foldl (fun t b => asmPush b t) s = complete u ∧ u = { s with inb := u.inb } ∧ u.inb.hi = s.inb.hi ∧
        u.inb.pos = frame.length ∧ u.inb.expected = frame.length ∧ u.inb.len = arg.length ∧
        u.inb.deadline = s.now + 1000 ∧ Memory.readBytes u.inb.buf 0 frame.length = frame ∧ FrameIsGood u ∧
        crcOk u = true ∧ cmdByte u = cmd ∧ Memory.readBytes u.inb.buf (hdrLen s.params) arg.length = arg

/-- Both one-second timeouts: an inbound frame older than its deadline is discarded with a diagnostic, an outbound reply
older than its deadline is abandoned; before the deadline neither is touched (R252, R314, marked decision D17, D18; that
a step which is not enabled changes nothing is log entry 8). -/
def Obligations.TimeoutsDiscardWhatIsStuck : Prop :=
  (∀ (s : State) (rest : List Event), s.events = .inTimeout :: rest → s.handlersEnabled = true →
    if (s.inb.state = .accumulating ∨ s.inb.state = .headerKnown) ∧ s.inb.deadline < s.now then
      step s = .next { s with
        events := rest
        inb := { s.inb with pos := 0, state := .idle, hi := 0#4 }
        diag := s.diag ++ [{ received := s.inb.pos,
                             expected := if s.inb.state = .headerKnown then some s.inb.expected else none }] }
    else step s = .next { s with events := rest }) ∧
  (∀ (s : State) (rest : List Event), s.events = .outTimeout :: rest → s.handlersEnabled = true →
    if s.outb.active = true ∧ s.outb.deadline < s.now then
      ∃ t, step s = .next t ∧ t.cell 1#2 0x0#4 = 0#4 ∧ t.cell 1#2 0x1#4 = 0#4 ∧
        (∀ b a, ¬ (b = 1#2 ∧ a.toNat ≤ 1) → t.cell b a = s.cell b a) ∧
        t = { s with events := rest, bank := t.bank, outb := { s.outb with active := false, pos := 0, len := 0 } }
    else step s = .next { s with events := rest })

/-! ## The clock, the backup, the boot -/

/-- The date that bank 0 holds: every digit at most 9, every field in its range, the day within its month (R201, R202,
R203, marked decision D28, D29). -/
def Obligations.BankHoldsADateExactlyWhenLegal : Prop :=
  ∀ (s : State) (f : DateTime),
    let x := fun a : Nibble => (s.cell 0#2 a).toNat
    emuFields s = some f ↔
      (x 0x0#4 ≤ 9 ∧ x 0x1#4 ≤ 5 ∧ f.sec = 10 * x 0x1#4 + x 0x0#4) ∧
        (x 0x2#4 ≤ 9 ∧ x 0x3#4 ≤ 5 ∧ f.min = 10 * x 0x3#4 + x 0x2#4) ∧
        (x 0x4#4 ≤ 9 ∧ f.hour = 10 * x 0x5#4 + x 0x4#4 ∧ f.hour ≤ 23) ∧
        (f.wday = x 0x6#4 ∧ f.wday ≤ 6) ∧
        (x 0x9#4 ≤ 9 ∧ f.month = 10 * x 0xA#4 + x 0x9#4 ∧ 1 ≤ f.month ∧ f.month ≤ 12) ∧
        (x 0xB#4 ≤ 9 ∧ x 0xC#4 ≤ 9 ∧ f.year = 10 * x 0xC#4 + x 0xB#4) ∧
        (x 0x7#4 ≤ 9 ∧ f.day = 10 * x 0x8#4 + x 0x7#4 ∧ 1 ≤ f.day ∧
          f.day ≤ [31, if f.year % 4 = 0 then 29 else 28, 31, 30, 31, 30, 31, 31, 30, 31, 30, 31].getD (f.month - 1) 0)

/-- The synchronizer's step: an enabled one commits a legal date and discards an illegal one without a sign, backs the
cells up and clears both flags in either case; one that is not enabled changes nothing (R205, R206, R207, marked decision
D29, D30; log entry 8). -/
def Obligations.SyncCommitsOrDiscards : Prop :=
  ∀ (s : State) (rest : List Event), s.events = .syncToHw :: rest → s.handlersEnabled = true →
    if (s.timeDirty = true ∨ s.ramDirty = true) ∧ s.timerEnabled = true then
      ∃ t, step s = .next t ∧ t.nv = (nvStore s).nv ∧
        t = { s with
              events := rest, timeDirty := false, ramDirty := false, nv := t.nv, hw := t.hw, lastSec := t.lastSec } ∧
        (s.timeDirty = false → t.hw = s.hw ∧ t.lastSec = s.lastSec) ∧
        (s.timeDirty = true → emuFields s = none → t.hw = s.hw ∧ t.lastSec = s.lastSec) ∧
        (s.timeDirty = true → ∀ f, emuFields s = some f → t.hw.time = f ∧ t.hw.wp = true ∧ t.lastSec = f.sec)
    else step s = .next { s with events := rest }

/-- The backup: the cookie, then bank `b` in words `2b-1` and `2b`, one nibble per address 0x0 to 0xC, with 0 for the
channel registers and above 0xC; a restore of words so written gives back the alarm, setting and RAM cells that were
stored and leaves every other cell alone (R214, R215, R216, marked decision D32). -/
def Obligations.BackupRoundTrips : Prop :=
  (∀ s : State,
    (nvStore s).nv.toList.head? = some 0x52503543#32 ∧ nvStore s = { s with nv := (nvStore s).nv } ∧
      ∀ (b : BankNo) (a : Nibble), b ≠ 0#2 →
        ((nvStore s).nv.toList.getD (2 * b.toNat - 1 + a.toNat / 8) 0#32).extractLsb' (4 * (a.toNat % 8)) 4 =
          if a.toNat ≤ 0xC ∧ ¬ (b = 1#2 ∧ a.toNat ≤ 1) then s.cell b a else 0#4) ∧
  ∀ s u : State, MasksHold s → u.nv = (nvStore s).nv →
    nvRestore u = { u with bank := (nvRestore u).bank } ∧
      ∀ (b : BankNo) (a : Nibble), (nvRestore u).cell b a =
        if b ≠ 0#2 ∧ a.toNat ≤ 0xC ∧ ¬ (b = 1#2 ∧ a.toNat ≤ 1) then s.cell b a else u.cell b a

/-- The digits of the hardware clock: each of the fourteen cells takes its value whole, because a legal date's digits fit
the masks; no other cell changes (R210). -/
def Obligations.DigitsOfTheHardwareClock : Prop :=
  ∀ s : State, s.hw.time.legal = true →
    let h := s.hw.time
    let u := digitsOfHw s
    u = { s with bank := u.bank } ∧
      (List.range 13).map (fun a => (u.cell 0#2 (BitVec.ofNat 4 a)).toNat) =
        [h.sec % 10, h.sec / 10, h.min % 10, h.min / 10, h.hour % 10, h.hour / 10, h.wday, h.day % 10, h.day / 10,
          h.month % 10, h.month / 10, h.year % 10, h.year / 10] ∧
      (u.cell 1#2 0xB#4).toNat = h.year % 4 ∧
      ∀ (b : BankNo) (a : Nibble), ¬ (b = 0#2 ∧ a.toNat ≤ 0xC) → ¬ (b = 1#2 ∧ a = 0xB#4) → u.cell b a = s.cell b a

/-- WAKEUP: with no new second nothing changes; with one, the second is noted, and the digits are derived again only when
the timer is enabled and no digits of the host are pending (R211, marked decision D31; R209). -/
def Obligations.WakeupRefreshesTheDigits : Prop :=
  ∀ (s : State) (rest : List Event), s.events = .wakeup :: rest → s.handlersEnabled = true →
    step s =
      if s.hw.time.sec = s.lastSec then .next { s with events := rest }
      else if s.timerEnabled = true ∧ s.timeDirty = false then
        .next (digitsOfHw { s with events := rest, lastSec := s.hw.time.sec })
      else .next { s with events := rest, lastSec := s.hw.time.sec }

/-- The hardware clock's tick: the time of day advances by one second modulo a day; at midnight the weekday and the date
move on by one day of the calendar; the date stays legal; nothing but the clock changes, whatever the timer enable (R213,
marked decision D29). -/
def Obligations.HardwareClockTicks : Prop :=
  ∀ (s : State) (rest : List Event), s.events = .hwTick :: rest → s.hw.time.legal = true →
    ∃ t, step s = .next t ∧ t = { s with events := rest, hw := { s.hw with time := t.hw.time } } ∧
      t.hw.time.legal = true ∧
      (let h := s.hw.time
       let k := t.hw.time
       let secs := fun x : DateTime => (x.hour * 60 + x.min) * 60 + x.sec
       secs k = (secs h + 1) % 86400 ∧
         (if secs h + 1 < 86400 then k.wday = h.wday ∧ k.day = h.day ∧ k.month = h.month ∧ k.year = h.year
          else
            k.wday = (h.wday + 1) % 7 ∧
              (if h.day < dim h.month h.year then k.day = h.day + 1 ∧ k.month = h.month ∧ k.year = h.year
               else if h.month < 12 then k.day = 1 ∧ k.month = h.month + 1 ∧ k.year = h.year
               else k.day = 1 ∧ k.month = 1 ∧ k.year = (h.year + 1) % 100)))

/-- BOOT from any stopped state: the values of the reset table, whatever the state before; the clock's date and the
backup survive; with the cookie the alarm, setting and RAM cells come back through their masks, without it they are 0
and `H24` is 1 (R411, R412, R56, R413, R215, marked decision D32, D33; the values that R56 leaves unspecified are the
argument `v`, log entry 5). -/
def Obligations.BootLeavesTheResetTable : Prop :=
  ∀ (s : State) (v : BootValues) (rest : List Event),
    s.events = .boot v :: rest → s.handlersEnabled = false →
      ∃ t, step s = .next t ∧ t.events = rest ∧ t.handlersEnabled = true ∧ t.params = s.params ∧
        t.hw.time = s.hw.time ∧ t.hw.wp = true ∧ t.nv = s.nv ∧ t.lastSec = s.hw.time.sec ∧ t.now = v.now ∧
        t.curBank = 0#2 ∧ t.timerEnabled = true ∧ t.timeDirty = false ∧ t.ramDirty = false ∧
        t.inb.hi = 0#4 ∧ t.inb.pos = 0 ∧ t.inb.state = .idle ∧
        t.outb.active = false ∧ t.outb.pos = 0 ∧ t.outb.len = 0 ∧
        t.uptimeUs = 0#64 ∧ t.consOut = [] ∧ t.consIn = [] ∧ t.diag = [] ∧
        (∀ a : Nibble, a.toNat ≤ 0xC → t.cell 0#2 a = (digitsOfHw s).cell 0#2 a) ∧
        (t.cell 1#2 0xB#4).toNat = s.hw.time.year % 4 ∧ t.cell 1#2 0x0#4 = 0#4 ∧ t.cell 1#2 0x1#4 = 0#4 ∧
        (∀ b, t.cell b 0xD#4 = 0x8#4 ∧ t.cell b 0xE#4 = 0#4 ∧ t.cell b 0xF#4 = 0#4) ∧
        MasksHold t ∧
        (s.nv.toList.head? = some 0x52503543#32 → ∀ (b : BankNo) (a : Nibble),
          b = 1#2 ∧ 2 ≤ a.toNat ∧ a ≠ 0xB#4 ∨ 2 ≤ b.toNat → a.toNat ≤ 0xC →
            t.cell b a =
              (s.nv.toList.getD (2 * b.toNat - 1 + a.toNat / 8) 0#32).extractLsb' (4 * (a.toNat % 8)) 4 &&& wmask b a) ∧
        (s.nv.toList.head? ≠ some 0x52503543#32 →
          t.cell 1#2 0xA#4 = 1#4 ∧
            ∀ (b : BankNo) (a : Nibble),
              b = 1#2 ∧ 2 ≤ a.toNat ∧ a ≠ 0xA#4 ∧ a ≠ 0xB#4 ∨ 2 ≤ b.toNat → a.toNat ≤ 0xC → t.cell b a = 0#4)

/-! ## The host transport -/

/-- The host reads `MODE` and keeps the nibble it sampled, selects bank 1 with the timer and alarm enables of that nibble,
and writes the nibble back at the end, so that the mode is as it found it (R332, marked derived and decision D37). -/
def Obligations.HostSelectsBankOneAndRestores : Prop :=
  ∀ (s : State) (k : Nat) (tm : BusTiming) (rest : List Event) (c : HostCall),
    s.events = .hostStep k tm :: rest → s.handlersEnabled = true → s.host.calls[k]? = some c →
      (c.phase = .readMode →
        ∃ t v, step s = .next t ∧ t.bus.driven = some (s.cell s.curBank 0xD#4) ∧ t.bus.sampled = some v ∧
          (tm.hold ≤ s.params.readPollCap → v = s.cell s.curBank 0xD#4) ∧
          t = { s with
                events := rest, bus := t.bus
                host := { s.host with calls := s.host.calls.set k { c with savedMode := v, phase := .selectBank } } }) ∧
      (c.phase = .selectBank →
        ∃ t, step s = .next t ∧ t.curBank = 1#2 ∧ (∀ b, t.cell b 0xD#4 = (c.savedMode &&& 0xC#4) ||| 0x1#4) ∧
          ModeMirrored t ∧
          (ModeMirrored s → c.savedMode = s.cell 0#2 0xD#4 →
            t.timerEnabled = s.timerEnabled ∧ (t.cell 0#2 0xD#4).getLsbD 2 = (s.cell 0#2 0xD#4).getLsbD 2)) ∧
      (c.phase = .restoreMode →
        ∃ t, step s = .next t ∧ (∀ b, t.cell b 0xD#4 = c.savedMode) ∧ ModeMirrored t)

/-- The bounded wait: a poll is `RD 0x0`; one that sees 0xC goes on to the magic; a miss waits `HOST_POLL_DELAY` with one
poll less; the last miss ends the try with TIMEOUT (R335, marked decision D43). Three points are the model's choice (log
entry 18): the delay is counted in ms of the host's own time, inside the delay the host does nothing, and the last miss
ends the try at once. -/
def Obligations.HostPollIsBounded : Prop :=
  (∀ (s : State) (k : Nat) (tm : BusTiming) (rest : List Event) (c : HostCall),
    s.events = .hostStep k tm :: rest → s.handlersEnabled = true → s.host.calls[k]? = some c → c.phase = .poll →
      if s.host.clock < c.waitUntil then step s = .next { s with events := rest }
      else
        ∃ t v, step s = .next t ∧ t.bus.driven = some (s.cell s.curBank 0x0#4) ∧ t.bus.sampled = some v ∧
          t.host =
            { s.host with
              calls := s.host.calls.set k
                (if v = 0xC#4 then { c with phase := .magic2 }
                 else if c.pollsLeft ≤ 1 then
                  { c with
                    pollsLeft := 0, reply := [], result := some { status := 0x07#8, replyLen := 0 }
                    phase := .restoreMode }
                 else
                  { c with
                    pollsLeft := c.pollsLeft - 1, waitUntil := s.host.clock + s.params.hostPollDelay }) }) ∧
  ∀ (s : State) (ms : Nat) (rest : List Event), s.events = .hostTick ms :: rest →
    step s = .next { s with events := rest, host := { s.host with clock := s.host.clock + ms } }

/-- The rest of the magic: `RD 0x1` must give 0xD, `RD 0x0` 0x6, `RD 0x1` 0x8; the first mismatch ends the try with
BADMAGIC and no further read (R336). -/
def Obligations.HostChecksTheMagic : Prop :=
  ∀ (s : State) (k : Nat) (tm : BusTiming) (rest : List Event) (c : HostCall),
    s.events = .hostStep k tm :: rest → s.handlersEnabled = true → s.host.calls[k]? = some c →
      ∀ e ∈ ([(.magic2, 0x1#4, 0xD#4, .magic3), (.magic3, 0x0#4, 0x6#4, .magic4), (.magic4, 0x1#4, 0x8#4, .getHi)] :
              List (HostPhase × Nibble × Nibble × HostPhase)),
        c.phase = e.1 →
          ∃ t v, step s = .next t ∧ t.bus.driven = some (s.cell s.curBank e.2.1) ∧ t.bus.sampled = some v ∧
            t.host =
              { s.host with
                calls := s.host.calls.set k
                  (if v = e.2.2.1 then { c with phase := e.2.2.2, received := [] }
                   else
                    { c with
                      phase := .restoreMode, reply := [], result := some { status := 0x08#8, replyLen := 0 } }) }

/-- The verdict on a reply that is wholly in, in this order: longer than the caller's buffer is REPLYLEN whatever its
CRC; a trailer that is not the CRC of status, length and payload is REPLYCRC; else the status that the block reported,
with the payload (R338; R339). `HostSendsAndReceivesBytes` says which step gives it. -/
def Obligations.HostJudgesTheReply : Prop :=
  ∀ (p : Params) (c : HostCall) (st : Byte) (data trailer : List Byte),
    data.length < 2 ^ (8 * p.lenWidth) → trailer.length = 4 →
      let body := st :: (beBytes p.lenWidth data.length ++ data)
      replyComplete p (body ++ trailer) = true ∧
        concludeReply p (body ++ trailer) c =
          { c with
            phase := .restoreMode
            reply := data.take c.replyMax
            result :=
              some
                (if c.replyMax < data.length then { status := 0x09#8, replyLen := c.replyMax }
                 else if beNat trailer ≠ (crc32 p body).toNat then { status := 0x0A#8, replyLen := data.length }
                 else { status := st, replyLen := data.length }) }

/-- A call of `send_cmd_retry` makes at most ten tries and one of `send_cmd` one (R330, R341, marked decision D43): the
call starts its first try with the interrupt sources disabled; a try that ends enables them again, on every path, and is
followed by another only after CRC, REPLYLEN, REPLYCRC, BADMAGIC or TIMEOUT and while one is left; only the start of that
other try, which disables the interrupts again, changes how many are left, and a call that has returned stays as it is
(R331). That the host starts the next try with its next step, without a wait, and that a call is taken while another runs
(R343) are log entry 18. -/
def Obligations.HostRetriesOnlyFramingErrors : Prop :=
  (∀ (s : State) (cmd : Byte) (arg : List Byte) (replyMax : Nat) (retry : Bool) (rest : List Event),
    s.events = .hostCall cmd arg replyMax retry :: rest →
      ∃ t c, step s = .next t ∧ t = { s with events := rest, host := t.host } ∧
        t.host = { s.host with irqEnabled := false, calls := s.host.calls ++ [c] } ∧
        c.triesLeft = (if retry then 9 else 0) ∧ c.phase = .readMode ∧ c.cmd = cmd ∧ c.arg = arg ∧
        c.replyMax = replyMax ∧ c.result = none) ∧
  (∀ (s : State) (k : Nat) (tm : BusTiming) (rest : List Event) (c : HostCall) (r : HostResult),
    s.events = .hostStep k tm :: rest → s.host.calls[k]? = some c → c.phase = .restoreMode → c.result = some r →
      ∃ t, step s = .next t ∧
        t.host =
          { s.host with
            irqEnabled := true
            calls := s.host.calls.set k
              { c with
                phase :=
                  if r.status ∈ [0x0B#8, 0x09#8, 0x0A#8, 0x08#8, 0x07#8] ∧ 0 < c.triesLeft then .retry
                  else .returned } }) ∧
  (∀ (s : State) (k : Nat) (tm : BusTiming) (rest : List Event) (c : HostCall),
    s.events = .hostStep k tm :: rest → s.host.calls[k]? = some c → c.phase = .retry →
      step s = .next { s with
        events := rest
        host := { s.host with
                  irqEnabled := false
                  calls := s.host.calls.set k
                    { c with
                      phase := .readMode, triesLeft := c.triesLeft - 1, toSend := [], received := [], reply := []
                      result := none } } }) ∧
  ∀ (s t : State) (k : Nat) (c : HostCall), step s = .next t → s.host.calls[k]? = some c →
    ∃ d, t.host.calls[k]? = some d ∧ d.cmd = c.cmd ∧ d.arg = c.arg ∧ d.replyMax = c.replyMax ∧
      (c.phase ≠ .retry → d.triesLeft = c.triesLeft) ∧
      (d.triesLeft ≠ c.triesLeft → d.triesLeft = c.triesLeft - 1 ∧ d.phase = .readMode) ∧
      (d.phase = .retry → c.phase = .retry ∨ c.phase = .restoreMode ∧ 0 < c.triesLeft) ∧
      (c.phase = .returned → d = c)

/-- How a byte crosses, each way: the request frame is spelled out when bank 1 is selected; each byte is sent by `WR 0x0`
of its high nibble and `WR 0x1` of its low one, the bus cycles of R72; after the last byte NULL returns OK and any other
command polls; each byte of the reply is `RD 0x0` and `RD 0x1`, and the reply is judged when status, length, as many
bytes as the length says, and four of trailer are in (R333, marked decision D2; R334; R337; R340, marked decision D37).
That NULL is the whole command byte 0x00 is the model's choice (log entry 27), and that the first poll comes without a
wait log entry 18. -/
def Obligations.HostSendsAndReceivesBytes : Prop :=
  ∀ (s : State) (k : Nat) (tm : BusTiming) (rest : List Event) (c : HostCall),
    s.events = .hostStep k tm :: rest → s.handlersEnabled = true → s.host.calls[k]? = some c →
      let served := fun (w : BitVec 1) (a d : Nibble) =>
        exec (decode (.bus (s.curBank ++ w ++ a ++ d)))
          { s with events := rest, bus := { timing := tm, driven := none, sampled := none } }
      let calls := fun d : HostCall => { s.host with calls := s.host.calls.set k d }
      (c.phase = .selectBank →
        let body := c.cmd :: (beBytes s.params.lenWidth c.arg.length ++ c.arg)
        let frame := [0xCD#8, 0x68#8] ++ body ++ beBytes 4 (crc32 s.params body).toNat
        ∃ t, step s = .next t ∧ t.host = calls { c with phase := .putHi, toSend := frame }) ∧
      (∀ b more, c.phase = .putHi → c.toSend = b :: more →
        ∃ u, served 1#1 0x0#4 (b.extractLsb' 4 4) = .next u ∧
          step s = .next { u with host := calls { c with phase := .putLo } }) ∧
      (∀ b more, c.phase = .putLo → c.toSend = b :: more →
        ∃ u, served 1#1 0x1#4 (b.extractLsb' 0 4) = .next u ∧
          step s = .next { u with
            host := calls
              (if more ≠ [] then { c with phase := .putHi, toSend := more }
               else if c.cmd = 0x00#8 then
                { c with
                  phase := .restoreMode, toSend := [], reply := [], result := some { status := 0x00#8, replyLen := 0 } }
               else
                { c with
                  phase := .poll, toSend := [], pollsLeft := s.params.hostPollMax, waitUntil := s.host.clock }) }) ∧
      (c.phase = .getHi →
        ∃ u v, served 0#1 0x0#4 0x0#4 = .next u ∧ u.bus.driven = some (s.cell s.curBank 0x0#4) ∧
          u.bus.sampled = some v ∧ step s = .next { u with host := calls { c with phase := .getLo, rxHi := v } }) ∧
      (c.phase = .getLo →
        ∃ u v, served 0#1 0x1#4 0x0#4 = .next u ∧ u.bus.driven = some (s.cell s.curBank 0x1#4) ∧
          u.bus.sampled = some v ∧
          (let r := c.received ++ [BitVec.ofNat 8 (16 * c.rxHi.toNat + v.toNat)]
           step s = .next { u with
             host := calls
               (if 1 + s.params.lenWidth ≤ r.length ∧
                    r.length = 1 + s.params.lenWidth + beNat ((r.drop 1).take s.params.lenWidth) + 4 then
                 concludeReply s.params r { c with received := r }
                else { c with phase := .getHi, received := r }) }))

end
end

