-- ==== Sys2Proof/Laws/State.lean ====
section
/-! SUPPORT. One lemma per field per update of the state: the fields an operation leaves as they are. -/

namespace Sys2Proof.Machine

/-! `State.setCell` changes bank only. -/

@[simp] theorem State.setCell_params (s : State) (b : BankNo) (a v : Nibble) : (s.setCell b a v).params = s.params := rfl

@[simp] theorem State.setCell_curBank (s : State) (b : BankNo) (a v : Nibble) : (s.setCell b a v).curBank = s.curBank := rfl

@[simp] theorem State.setCell_timerEnabled (s : State) (b : BankNo) (a v : Nibble) : (s.setCell b a v).timerEnabled = s.timerEnabled := rfl

@[simp] theorem State.setCell_timeDirty (s : State) (b : BankNo) (a v : Nibble) : (s.setCell b a v).timeDirty = s.timeDirty := rfl

@[simp] theorem State.setCell_ramDirty (s : State) (b : BankNo) (a v : Nibble) : (s.setCell b a v).ramDirty = s.ramDirty := rfl

@[simp] theorem State.setCell_inb (s : State) (b : BankNo) (a v : Nibble) : (s.setCell b a v).inb = s.inb := rfl

@[simp] theorem State.setCell_outb (s : State) (b : BankNo) (a v : Nibble) : (s.setCell b a v).outb = s.outb := rfl

@[simp] theorem State.setCell_lastSec (s : State) (b : BankNo) (a v : Nibble) : (s.setCell b a v).lastSec = s.lastSec := rfl

@[simp] theorem State.setCell_nv (s : State) (b : BankNo) (a v : Nibble) : (s.setCell b a v).nv = s.nv := rfl

@[simp] theorem State.setCell_hw (s : State) (b : BankNo) (a v : Nibble) : (s.setCell b a v).hw = s.hw := rfl

@[simp] theorem State.setCell_now (s : State) (b : BankNo) (a v : Nibble) : (s.setCell b a v).now = s.now := rfl

@[simp] theorem State.setCell_uptimeUs (s : State) (b : BankNo) (a v : Nibble) : (s.setCell b a v).uptimeUs = s.uptimeUs := rfl

@[simp] theorem State.setCell_consOut (s : State) (b : BankNo) (a v : Nibble) : (s.setCell b a v).consOut = s.consOut := rfl

@[simp] theorem State.setCell_consIn (s : State) (b : BankNo) (a v : Nibble) : (s.setCell b a v).consIn = s.consIn := rfl

@[simp] theorem State.setCell_cfg (s : State) (b : BankNo) (a v : Nibble) : (s.setCell b a v).cfg = s.cfg := rfl

@[simp] theorem State.setCell_map (s : State) (b : BankNo) (a v : Nibble) : (s.setCell b a v).map = s.map := rfl

@[simp] theorem State.setCell_diag (s : State) (b : BankNo) (a v : Nibble) : (s.setCell b a v).diag = s.diag := rfl

@[simp] theorem State.setCell_bus (s : State) (b : BankNo) (a v : Nibble) : (s.setCell b a v).bus = s.bus := rfl

@[simp] theorem State.setCell_handlersEnabled (s : State) (b : BankNo) (a v : Nibble) : (s.setCell b a v).handlersEnabled = s.handlersEnabled := rfl

@[simp] theorem State.setCell_host (s : State) (b : BankNo) (a v : Nibble) : (s.setCell b a v).host = s.host := rfl

@[simp] theorem State.setCell_events (s : State) (b : BankNo) (a v : Nibble) : (s.setCell b a v).events = s.events := rfl

/-! `setChannel` changes bank only. -/

@[simp] theorem setChannel_params (h l : Nibble) (s : State) : (setChannel h l s).params = s.params := rfl

@[simp] theorem setChannel_curBank (h l : Nibble) (s : State) : (setChannel h l s).curBank = s.curBank := rfl

@[simp] theorem setChannel_timerEnabled (h l : Nibble) (s : State) : (setChannel h l s).timerEnabled = s.timerEnabled := rfl

@[simp] theorem setChannel_timeDirty (h l : Nibble) (s : State) : (setChannel h l s).timeDirty = s.timeDirty := rfl

@[simp] theorem setChannel_ramDirty (h l : Nibble) (s : State) : (setChannel h l s).ramDirty = s.ramDirty := rfl

@[simp] theorem setChannel_inb (h l : Nibble) (s : State) : (setChannel h l s).inb = s.inb := rfl

@[simp] theorem setChannel_outb (h l : Nibble) (s : State) : (setChannel h l s).outb = s.outb := rfl

@[simp] theorem setChannel_lastSec (h l : Nibble) (s : State) : (setChannel h l s).lastSec = s.lastSec := rfl

@[simp] theorem setChannel_nv (h l : Nibble) (s : State) : (setChannel h l s).nv = s.nv := rfl

@[simp] theorem setChannel_hw (h l : Nibble) (s : State) : (setChannel h l s).hw = s.hw := rfl

@[simp] theorem setChannel_now (h l : Nibble) (s : State) : (setChannel h l s).now = s.now := rfl

@[simp] theorem setChannel_uptimeUs (h l : Nibble) (s : State) : (setChannel h l s).uptimeUs = s.uptimeUs := rfl

@[simp] theorem setChannel_consOut (h l : Nibble) (s : State) : (setChannel h l s).consOut = s.consOut := rfl

@[simp] theorem setChannel_consIn (h l : Nibble) (s : State) : (setChannel h l s).consIn = s.consIn := rfl

@[simp] theorem setChannel_cfg (h l : Nibble) (s : State) : (setChannel h l s).cfg = s.cfg := rfl

@[simp] theorem setChannel_map (h l : Nibble) (s : State) : (setChannel h l s).map = s.map := rfl

@[simp] theorem setChannel_diag (h l : Nibble) (s : State) : (setChannel h l s).diag = s.diag := rfl

@[simp] theorem setChannel_bus (h l : Nibble) (s : State) : (setChannel h l s).bus = s.bus := rfl

@[simp] theorem setChannel_handlersEnabled (h l : Nibble) (s : State) : (setChannel h l s).handlersEnabled = s.handlersEnabled := rfl

@[simp] theorem setChannel_host (h l : Nibble) (s : State) : (setChannel h l s).host = s.host := rfl

@[simp] theorem setChannel_events (h l : Nibble) (s : State) : (setChannel h l s).events = s.events := rfl

/-! `storeMasked` changes bank only. -/

@[simp] theorem storeMasked_params (b : BankNo) (a d : Nibble) (s : State) : (storeMasked b a d s).params = s.params := rfl

@[simp] theorem storeMasked_curBank (b : BankNo) (a d : Nibble) (s : State) : (storeMasked b a d s).curBank = s.curBank := rfl

@[simp] theorem storeMasked_timerEnabled (b : BankNo) (a d : Nibble) (s : State) : (storeMasked b a d s).timerEnabled = s.timerEnabled := rfl

@[simp] theorem storeMasked_timeDirty (b : BankNo) (a d : Nibble) (s : State) : (storeMasked b a d s).timeDirty = s.timeDirty := rfl

@[simp] theorem storeMasked_ramDirty (b : BankNo) (a d : Nibble) (s : State) : (storeMasked b a d s).ramDirty = s.ramDirty := rfl

@[simp] theorem storeMasked_inb (b : BankNo) (a d : Nibble) (s : State) : (storeMasked b a d s).inb = s.inb := rfl

@[simp] theorem storeMasked_outb (b : BankNo) (a d : Nibble) (s : State) : (storeMasked b a d s).outb = s.outb := rfl

@[simp] theorem storeMasked_lastSec (b : BankNo) (a d : Nibble) (s : State) : (storeMasked b a d s).lastSec = s.lastSec := rfl

@[simp] theorem storeMasked_nv (b : BankNo) (a d : Nibble) (s : State) : (storeMasked b a d s).nv = s.nv := rfl

@[simp] theorem storeMasked_hw (b : BankNo) (a d : Nibble) (s : State) : (storeMasked b a d s).hw = s.hw := rfl

@[simp] theorem storeMasked_now (b : BankNo) (a d : Nibble) (s : State) : (storeMasked b a d s).now = s.now := rfl

@[simp] theorem storeMasked_uptimeUs (b : BankNo) (a d : Nibble) (s : State) : (storeMasked b a d s).uptimeUs = s.uptimeUs := rfl

@[simp] theorem storeMasked_consOut (b : BankNo) (a d : Nibble) (s : State) : (storeMasked b a d s).consOut = s.consOut := rfl

@[simp] theorem storeMasked_consIn (b : BankNo) (a d : Nibble) (s : State) : (storeMasked b a d s).consIn = s.consIn := rfl

@[simp] theorem storeMasked_cfg (b : BankNo) (a d : Nibble) (s : State) : (storeMasked b a d s).cfg = s.cfg := rfl

@[simp] theorem storeMasked_map (b : BankNo) (a d : Nibble) (s : State) : (storeMasked b a d s).map = s.map := rfl

@[simp] theorem storeMasked_diag (b : BankNo) (a d : Nibble) (s : State) : (storeMasked b a d s).diag = s.diag := rfl

@[simp] theorem storeMasked_bus (b : BankNo) (a d : Nibble) (s : State) : (storeMasked b a d s).bus = s.bus := rfl

@[simp] theorem storeMasked_handlersEnabled (b : BankNo) (a d : Nibble) (s : State) : (storeMasked b a d s).handlersEnabled = s.handlersEnabled := rfl

@[simp] theorem storeMasked_host (b : BankNo) (a d : Nibble) (s : State) : (storeMasked b a d s).host = s.host := rfl

@[simp] theorem storeMasked_events (b : BankNo) (a d : Nibble) (s : State) : (storeMasked b a d s).events = s.events := rfl

/-! `driveRead` changes bus only. -/

@[simp] theorem driveRead_params (v : Nibble) (s : State) : (driveRead v s).params = s.params := rfl

@[simp] theorem driveRead_bank (v : Nibble) (s : State) : (driveRead v s).bank = s.bank := rfl

@[simp] theorem driveRead_curBank (v : Nibble) (s : State) : (driveRead v s).curBank = s.curBank := rfl

@[simp] theorem driveRead_timerEnabled (v : Nibble) (s : State) : (driveRead v s).timerEnabled = s.timerEnabled := rfl

@[simp] theorem driveRead_timeDirty (v : Nibble) (s : State) : (driveRead v s).timeDirty = s.timeDirty := rfl

@[simp] theorem driveRead_ramDirty (v : Nibble) (s : State) : (driveRead v s).ramDirty = s.ramDirty := rfl

@[simp] theorem driveRead_inb (v : Nibble) (s : State) : (driveRead v s).inb = s.inb := rfl

@[simp] theorem driveRead_outb (v : Nibble) (s : State) : (driveRead v s).outb = s.outb := rfl

@[simp] theorem driveRead_lastSec (v : Nibble) (s : State) : (driveRead v s).lastSec = s.lastSec := rfl

@[simp] theorem driveRead_nv (v : Nibble) (s : State) : (driveRead v s).nv = s.nv := rfl

@[simp] theorem driveRead_hw (v : Nibble) (s : State) : (driveRead v s).hw = s.hw := rfl

@[simp] theorem driveRead_now (v : Nibble) (s : State) : (driveRead v s).now = s.now := rfl

@[simp] theorem driveRead_uptimeUs (v : Nibble) (s : State) : (driveRead v s).uptimeUs = s.uptimeUs := rfl

@[simp] theorem driveRead_consOut (v : Nibble) (s : State) : (driveRead v s).consOut = s.consOut := rfl

@[simp] theorem driveRead_consIn (v : Nibble) (s : State) : (driveRead v s).consIn = s.consIn := rfl

@[simp] theorem driveRead_cfg (v : Nibble) (s : State) : (driveRead v s).cfg = s.cfg := rfl

@[simp] theorem driveRead_map (v : Nibble) (s : State) : (driveRead v s).map = s.map := rfl

@[simp] theorem driveRead_diag (v : Nibble) (s : State) : (driveRead v s).diag = s.diag := rfl

@[simp] theorem driveRead_handlersEnabled (v : Nibble) (s : State) : (driveRead v s).handlersEnabled = s.handlersEnabled := rfl

@[simp] theorem driveRead_host (v : Nibble) (s : State) : (driveRead v s).host = s.host := rfl

@[simp] theorem driveRead_events (v : Nibble) (s : State) : (driveRead v s).events = s.events := rfl

/-! `outLoad` changes bank only. -/

@[simp] theorem outLoad_params (s : State) : (outLoad s).params = s.params := rfl

@[simp] theorem outLoad_curBank (s : State) : (outLoad s).curBank = s.curBank := rfl

@[simp] theorem outLoad_timerEnabled (s : State) : (outLoad s).timerEnabled = s.timerEnabled := rfl

@[simp] theorem outLoad_timeDirty (s : State) : (outLoad s).timeDirty = s.timeDirty := rfl

@[simp] theorem outLoad_ramDirty (s : State) : (outLoad s).ramDirty = s.ramDirty := rfl

@[simp] theorem outLoad_inb (s : State) : (outLoad s).inb = s.inb := rfl

@[simp] theorem outLoad_outb (s : State) : (outLoad s).outb = s.outb := rfl

@[simp] theorem outLoad_lastSec (s : State) : (outLoad s).lastSec = s.lastSec := rfl

@[simp] theorem outLoad_nv (s : State) : (outLoad s).nv = s.nv := rfl

@[simp] theorem outLoad_hw (s : State) : (outLoad s).hw = s.hw := rfl

@[simp] theorem outLoad_now (s : State) : (outLoad s).now = s.now := rfl

@[simp] theorem outLoad_uptimeUs (s : State) : (outLoad s).uptimeUs = s.uptimeUs := rfl

@[simp] theorem outLoad_consOut (s : State) : (outLoad s).consOut = s.consOut := rfl

@[simp] theorem outLoad_consIn (s : State) : (outLoad s).consIn = s.consIn := rfl

@[simp] theorem outLoad_cfg (s : State) : (outLoad s).cfg = s.cfg := rfl

@[simp] theorem outLoad_map (s : State) : (outLoad s).map = s.map := rfl

@[simp] theorem outLoad_diag (s : State) : (outLoad s).diag = s.diag := rfl

@[simp] theorem outLoad_bus (s : State) : (outLoad s).bus = s.bus := rfl

@[simp] theorem outLoad_handlersEnabled (s : State) : (outLoad s).handlersEnabled = s.handlersEnabled := rfl

@[simp] theorem outLoad_host (s : State) : (outLoad s).host = s.host := rfl

@[simp] theorem outLoad_events (s : State) : (outLoad s).events = s.events := rfl

/-! `outFinish` changes bank, outb only. -/

@[simp] theorem outFinish_params (s : State) : (outFinish s).params = s.params := rfl

@[simp] theorem outFinish_curBank (s : State) : (outFinish s).curBank = s.curBank := rfl

@[simp] theorem outFinish_timerEnabled (s : State) : (outFinish s).timerEnabled = s.timerEnabled := rfl

@[simp] theorem outFinish_timeDirty (s : State) : (outFinish s).timeDirty = s.timeDirty := rfl

@[simp] theorem outFinish_ramDirty (s : State) : (outFinish s).ramDirty = s.ramDirty := rfl

@[simp] theorem outFinish_inb (s : State) : (outFinish s).inb = s.inb := rfl

@[simp] theorem outFinish_lastSec (s : State) : (outFinish s).lastSec = s.lastSec := rfl

@[simp] theorem outFinish_nv (s : State) : (outFinish s).nv = s.nv := rfl

@[simp] theorem outFinish_hw (s : State) : (outFinish s).hw = s.hw := rfl

@[simp] theorem outFinish_now (s : State) : (outFinish s).now = s.now := rfl

@[simp] theorem outFinish_uptimeUs (s : State) : (outFinish s).uptimeUs = s.uptimeUs := rfl

@[simp] theorem outFinish_consOut (s : State) : (outFinish s).consOut = s.consOut := rfl

@[simp] theorem outFinish_consIn (s : State) : (outFinish s).consIn = s.consIn := rfl

@[simp] theorem outFinish_cfg (s : State) : (outFinish s).cfg = s.cfg := rfl

@[simp] theorem outFinish_map (s : State) : (outFinish s).map = s.map := rfl

@[simp] theorem outFinish_diag (s : State) : (outFinish s).diag = s.diag := rfl

@[simp] theorem outFinish_bus (s : State) : (outFinish s).bus = s.bus := rfl

@[simp] theorem outFinish_handlersEnabled (s : State) : (outFinish s).handlersEnabled = s.handlersEnabled := rfl

@[simp] theorem outFinish_host (s : State) : (outFinish s).host = s.host := rfl

@[simp] theorem outFinish_events (s : State) : (outFinish s).events = s.events := rfl

/-! `reply` changes bank, outb only. -/

@[simp] theorem reply_params (st : Config.Status) (data : List Byte) (s : State) : (reply st data s).params = s.params := rfl

@[simp] theorem reply_curBank (st : Config.Status) (data : List Byte) (s : State) : (reply st data s).curBank = s.curBank := rfl

@[simp] theorem reply_timerEnabled (st : Config.Status) (data : List Byte) (s : State) : (reply st data s).timerEnabled = s.timerEnabled := rfl

@[simp] theorem reply_timeDirty (st : Config.Status) (data : List Byte) (s : State) : (reply st data s).timeDirty = s.timeDirty := rfl

@[simp] theorem reply_ramDirty (st : Config.Status) (data : List Byte) (s : State) : (reply st data s).ramDirty = s.ramDirty := rfl

@[simp] theorem reply_inb (st : Config.Status) (data : List Byte) (s : State) : (reply st data s).inb = s.inb := rfl

@[simp] theorem reply_lastSec (st : Config.Status) (data : List Byte) (s : State) : (reply st data s).lastSec = s.lastSec := rfl

@[simp] theorem reply_nv (st : Config.Status) (data : List Byte) (s : State) : (reply st data s).nv = s.nv := rfl

@[simp] theorem reply_hw (st : Config.Status) (data : List Byte) (s : State) : (reply st data s).hw = s.hw := rfl

@[simp] theorem reply_now (st : Config.Status) (data : List Byte) (s : State) : (reply st data s).now = s.now := rfl

@[simp] theorem reply_uptimeUs (st : Config.Status) (data : List Byte) (s : State) : (reply st data s).uptimeUs = s.uptimeUs := rfl

@[simp] theorem reply_consOut (st : Config.Status) (data : List Byte) (s : State) : (reply st data s).consOut = s.consOut := rfl

@[simp] theorem reply_consIn (st : Config.Status) (data : List Byte) (s : State) : (reply st data s).consIn = s.consIn := rfl

@[simp] theorem reply_cfg (st : Config.Status) (data : List Byte) (s : State) : (reply st data s).cfg = s.cfg := rfl

@[simp] theorem reply_map (st : Config.Status) (data : List Byte) (s : State) : (reply st data s).map = s.map := rfl

@[simp] theorem reply_diag (st : Config.Status) (data : List Byte) (s : State) : (reply st data s).diag = s.diag := rfl

@[simp] theorem reply_bus (st : Config.Status) (data : List Byte) (s : State) : (reply st data s).bus = s.bus := rfl

@[simp] theorem reply_handlersEnabled (st : Config.Status) (data : List Byte) (s : State) : (reply st data s).handlersEnabled = s.handlersEnabled := rfl

@[simp] theorem reply_host (st : Config.Status) (data : List Byte) (s : State) : (reply st data s).host = s.host := rfl

@[simp] theorem reply_events (st : Config.Status) (data : List Byte) (s : State) : (reply st data s).events = s.events := rfl

/-! `clearInbound` changes inb only. -/

@[simp] theorem clearInbound_params (s : State) : (clearInbound s).params = s.params := rfl

@[simp] theorem clearInbound_bank (s : State) : (clearInbound s).bank = s.bank := rfl

@[simp] theorem clearInbound_curBank (s : State) : (clearInbound s).curBank = s.curBank := rfl

@[simp] theorem clearInbound_timerEnabled (s : State) : (clearInbound s).timerEnabled = s.timerEnabled := rfl

@[simp] theorem clearInbound_timeDirty (s : State) : (clearInbound s).timeDirty = s.timeDirty := rfl

@[simp] theorem clearInbound_ramDirty (s : State) : (clearInbound s).ramDirty = s.ramDirty := rfl

@[simp] theorem clearInbound_outb (s : State) : (clearInbound s).outb = s.outb := rfl

@[simp] theorem clearInbound_lastSec (s : State) : (clearInbound s).lastSec = s.lastSec := rfl

@[simp] theorem clearInbound_nv (s : State) : (clearInbound s).nv = s.nv := rfl

@[simp] theorem clearInbound_hw (s : State) : (clearInbound s).hw = s.hw := rfl

@[simp] theorem clearInbound_now (s : State) : (clearInbound s).now = s.now := rfl

@[simp] theorem clearInbound_uptimeUs (s : State) : (clearInbound s).uptimeUs = s.uptimeUs := rfl

@[simp] theorem clearInbound_consOut (s : State) : (clearInbound s).consOut = s.consOut := rfl

@[simp] theorem clearInbound_consIn (s : State) : (clearInbound s).consIn = s.consIn := rfl

@[simp] theorem clearInbound_cfg (s : State) : (clearInbound s).cfg = s.cfg := rfl

@[simp] theorem clearInbound_map (s : State) : (clearInbound s).map = s.map := rfl

@[simp] theorem clearInbound_diag (s : State) : (clearInbound s).diag = s.diag := rfl

@[simp] theorem clearInbound_bus (s : State) : (clearInbound s).bus = s.bus := rfl

@[simp] theorem clearInbound_handlersEnabled (s : State) : (clearInbound s).handlersEnabled = s.handlersEnabled := rfl

@[simp] theorem clearInbound_host (s : State) : (clearInbound s).host = s.host := rfl

@[simp] theorem clearInbound_events (s : State) : (clearInbound s).events = s.events := rfl

/-! `alarmClear` changes bank, timeDirty only. -/

@[simp] theorem alarmClear_params (s : State) : (alarmClear s).params = s.params := rfl

@[simp] theorem alarmClear_curBank (s : State) : (alarmClear s).curBank = s.curBank := rfl

@[simp] theorem alarmClear_timerEnabled (s : State) : (alarmClear s).timerEnabled = s.timerEnabled := rfl

@[simp] theorem alarmClear_ramDirty (s : State) : (alarmClear s).ramDirty = s.ramDirty := rfl

@[simp] theorem alarmClear_inb (s : State) : (alarmClear s).inb = s.inb := rfl

@[simp] theorem alarmClear_outb (s : State) : (alarmClear s).outb = s.outb := rfl

@[simp] theorem alarmClear_lastSec (s : State) : (alarmClear s).lastSec = s.lastSec := rfl

@[simp] theorem alarmClear_nv (s : State) : (alarmClear s).nv = s.nv := rfl

@[simp] theorem alarmClear_hw (s : State) : (alarmClear s).hw = s.hw := rfl

@[simp] theorem alarmClear_now (s : State) : (alarmClear s).now = s.now := rfl

@[simp] theorem alarmClear_uptimeUs (s : State) : (alarmClear s).uptimeUs = s.uptimeUs := rfl

@[simp] theorem alarmClear_consOut (s : State) : (alarmClear s).consOut = s.consOut := rfl

@[simp] theorem alarmClear_consIn (s : State) : (alarmClear s).consIn = s.consIn := rfl

@[simp] theorem alarmClear_cfg (s : State) : (alarmClear s).cfg = s.cfg := rfl

@[simp] theorem alarmClear_map (s : State) : (alarmClear s).map = s.map := rfl

@[simp] theorem alarmClear_diag (s : State) : (alarmClear s).diag = s.diag := rfl

@[simp] theorem alarmClear_bus (s : State) : (alarmClear s).bus = s.bus := rfl

@[simp] theorem alarmClear_handlersEnabled (s : State) : (alarmClear s).handlersEnabled = s.handlersEnabled := rfl

@[simp] theorem alarmClear_host (s : State) : (alarmClear s).host = s.host := rfl

@[simp] theorem alarmClear_events (s : State) : (alarmClear s).events = s.events := rfl

/-! `protoReset` changes bank, inb, outb only. -/

@[simp] theorem protoReset_params (s : State) : (protoReset s).params = s.params := rfl

@[simp] theorem protoReset_curBank (s : State) : (protoReset s).curBank = s.curBank := rfl

@[simp] theorem protoReset_timerEnabled (s : State) : (protoReset s).timerEnabled = s.timerEnabled := rfl

@[simp] theorem protoReset_timeDirty (s : State) : (protoReset s).timeDirty = s.timeDirty := rfl

@[simp] theorem protoReset_ramDirty (s : State) : (protoReset s).ramDirty = s.ramDirty := rfl

@[simp] theorem protoReset_lastSec (s : State) : (protoReset s).lastSec = s.lastSec := rfl

@[simp] theorem protoReset_nv (s : State) : (protoReset s).nv = s.nv := rfl

@[simp] theorem protoReset_hw (s : State) : (protoReset s).hw = s.hw := rfl

@[simp] theorem protoReset_now (s : State) : (protoReset s).now = s.now := rfl

@[simp] theorem protoReset_uptimeUs (s : State) : (protoReset s).uptimeUs = s.uptimeUs := rfl

@[simp] theorem protoReset_consOut (s : State) : (protoReset s).consOut = s.consOut := rfl

@[simp] theorem protoReset_consIn (s : State) : (protoReset s).consIn = s.consIn := rfl

@[simp] theorem protoReset_cfg (s : State) : (protoReset s).cfg = s.cfg := rfl

@[simp] theorem protoReset_map (s : State) : (protoReset s).map = s.map := rfl

@[simp] theorem protoReset_diag (s : State) : (protoReset s).diag = s.diag := rfl

@[simp] theorem protoReset_bus (s : State) : (protoReset s).bus = s.bus := rfl

@[simp] theorem protoReset_handlersEnabled (s : State) : (protoReset s).handlersEnabled = s.handlersEnabled := rfl

@[simp] theorem protoReset_host (s : State) : (protoReset s).host = s.host := rfl

@[simp] theorem protoReset_events (s : State) : (protoReset s).events = s.events := rfl

/-! `clearDirty` changes timeDirty, ramDirty only. -/

@[simp] theorem clearDirty_params (s : State) : (clearDirty s).params = s.params := rfl

@[simp] theorem clearDirty_bank (s : State) : (clearDirty s).bank = s.bank := rfl

@[simp] theorem clearDirty_curBank (s : State) : (clearDirty s).curBank = s.curBank := rfl

@[simp] theorem clearDirty_timerEnabled (s : State) : (clearDirty s).timerEnabled = s.timerEnabled := rfl

@[simp] theorem clearDirty_inb (s : State) : (clearDirty s).inb = s.inb := rfl

@[simp] theorem clearDirty_outb (s : State) : (clearDirty s).outb = s.outb := rfl

@[simp] theorem clearDirty_lastSec (s : State) : (clearDirty s).lastSec = s.lastSec := rfl

@[simp] theorem clearDirty_nv (s : State) : (clearDirty s).nv = s.nv := rfl

@[simp] theorem clearDirty_hw (s : State) : (clearDirty s).hw = s.hw := rfl

@[simp] theorem clearDirty_now (s : State) : (clearDirty s).now = s.now := rfl

@[simp] theorem clearDirty_uptimeUs (s : State) : (clearDirty s).uptimeUs = s.uptimeUs := rfl

@[simp] theorem clearDirty_consOut (s : State) : (clearDirty s).consOut = s.consOut := rfl

@[simp] theorem clearDirty_consIn (s : State) : (clearDirty s).consIn = s.consIn := rfl

@[simp] theorem clearDirty_cfg (s : State) : (clearDirty s).cfg = s.cfg := rfl

@[simp] theorem clearDirty_map (s : State) : (clearDirty s).map = s.map := rfl

@[simp] theorem clearDirty_diag (s : State) : (clearDirty s).diag = s.diag := rfl

@[simp] theorem clearDirty_bus (s : State) : (clearDirty s).bus = s.bus := rfl

@[simp] theorem clearDirty_handlersEnabled (s : State) : (clearDirty s).handlersEnabled = s.handlersEnabled := rfl

@[simp] theorem clearDirty_host (s : State) : (clearDirty s).host = s.host := rfl

@[simp] theorem clearDirty_events (s : State) : (clearDirty s).events = s.events := rfl

/-! `setMode` changes bank, curBank, timerEnabled only. -/

@[simp] theorem setMode_params (d : Nibble) (s : State) : (setMode d s).params = s.params := rfl

@[simp] theorem setMode_timeDirty (d : Nibble) (s : State) : (setMode d s).timeDirty = s.timeDirty := rfl

@[simp] theorem setMode_ramDirty (d : Nibble) (s : State) : (setMode d s).ramDirty = s.ramDirty := rfl

@[simp] theorem setMode_inb (d : Nibble) (s : State) : (setMode d s).inb = s.inb := rfl

@[simp] theorem setMode_outb (d : Nibble) (s : State) : (setMode d s).outb = s.outb := rfl

@[simp] theorem setMode_lastSec (d : Nibble) (s : State) : (setMode d s).lastSec = s.lastSec := rfl

@[simp] theorem setMode_nv (d : Nibble) (s : State) : (setMode d s).nv = s.nv := rfl

@[simp] theorem setMode_hw (d : Nibble) (s : State) : (setMode d s).hw = s.hw := rfl

@[simp] theorem setMode_now (d : Nibble) (s : State) : (setMode d s).now = s.now := rfl

@[simp] theorem setMode_uptimeUs (d : Nibble) (s : State) : (setMode d s).uptimeUs = s.uptimeUs := rfl

@[simp] theorem setMode_consOut (d : Nibble) (s : State) : (setMode d s).consOut = s.consOut := rfl

@[simp] theorem setMode_consIn (d : Nibble) (s : State) : (setMode d s).consIn = s.consIn := rfl

@[simp] theorem setMode_cfg (d : Nibble) (s : State) : (setMode d s).cfg = s.cfg := rfl

@[simp] theorem setMode_map (d : Nibble) (s : State) : (setMode d s).map = s.map := rfl

@[simp] theorem setMode_diag (d : Nibble) (s : State) : (setMode d s).diag = s.diag := rfl

@[simp] theorem setMode_bus (d : Nibble) (s : State) : (setMode d s).bus = s.bus := rfl

@[simp] theorem setMode_handlersEnabled (d : Nibble) (s : State) : (setMode d s).handlersEnabled = s.handlersEnabled := rfl

@[simp] theorem setMode_host (d : Nibble) (s : State) : (setMode d s).host = s.host := rfl

@[simp] theorem setMode_events (d : Nibble) (s : State) : (setMode d s).events = s.events := rfl

/-! `hwCommit` changes hw, lastSec only. -/

@[simp] theorem hwCommit_params (f : DateTime) (s : State) : (hwCommit f s).params = s.params := rfl

@[simp] theorem hwCommit_bank (f : DateTime) (s : State) : (hwCommit f s).bank = s.bank := rfl

@[simp] theorem hwCommit_curBank (f : DateTime) (s : State) : (hwCommit f s).curBank = s.curBank := rfl

@[simp] theorem hwCommit_timerEnabled (f : DateTime) (s : State) : (hwCommit f s).timerEnabled = s.timerEnabled := rfl

@[simp] theorem hwCommit_timeDirty (f : DateTime) (s : State) : (hwCommit f s).timeDirty = s.timeDirty := rfl

@[simp] theorem hwCommit_ramDirty (f : DateTime) (s : State) : (hwCommit f s).ramDirty = s.ramDirty := rfl

@[simp] theorem hwCommit_inb (f : DateTime) (s : State) : (hwCommit f s).inb = s.inb := rfl

@[simp] theorem hwCommit_outb (f : DateTime) (s : State) : (hwCommit f s).outb = s.outb := rfl

@[simp] theorem hwCommit_nv (f : DateTime) (s : State) : (hwCommit f s).nv = s.nv := rfl

@[simp] theorem hwCommit_now (f : DateTime) (s : State) : (hwCommit f s).now = s.now := rfl

@[simp] theorem hwCommit_uptimeUs (f : DateTime) (s : State) : (hwCommit f s).uptimeUs = s.uptimeUs := rfl

@[simp] theorem hwCommit_consOut (f : DateTime) (s : State) : (hwCommit f s).consOut = s.consOut := rfl

@[simp] theorem hwCommit_consIn (f : DateTime) (s : State) : (hwCommit f s).consIn = s.consIn := rfl

@[simp] theorem hwCommit_cfg (f : DateTime) (s : State) : (hwCommit f s).cfg = s.cfg := rfl

@[simp] theorem hwCommit_map (f : DateTime) (s : State) : (hwCommit f s).map = s.map := rfl

@[simp] theorem hwCommit_diag (f : DateTime) (s : State) : (hwCommit f s).diag = s.diag := rfl

@[simp] theorem hwCommit_bus (f : DateTime) (s : State) : (hwCommit f s).bus = s.bus := rfl

@[simp] theorem hwCommit_handlersEnabled (f : DateTime) (s : State) : (hwCommit f s).handlersEnabled = s.handlersEnabled := rfl

@[simp] theorem hwCommit_host (f : DateTime) (s : State) : (hwCommit f s).host = s.host := rfl

@[simp] theorem hwCommit_events (f : DateTime) (s : State) : (hwCommit f s).events = s.events := rfl

/-! `nvStore` changes nv only. -/

@[simp] theorem nvStore_params (s : State) : (nvStore s).params = s.params := rfl

@[simp] theorem nvStore_bank (s : State) : (nvStore s).bank = s.bank := rfl

@[simp] theorem nvStore_curBank (s : State) : (nvStore s).curBank = s.curBank := rfl

@[simp] theorem nvStore_timerEnabled (s : State) : (nvStore s).timerEnabled = s.timerEnabled := rfl

@[simp] theorem nvStore_timeDirty (s : State) : (nvStore s).timeDirty = s.timeDirty := rfl

@[simp] theorem nvStore_ramDirty (s : State) : (nvStore s).ramDirty = s.ramDirty := rfl

@[simp] theorem nvStore_inb (s : State) : (nvStore s).inb = s.inb := rfl

@[simp] theorem nvStore_outb (s : State) : (nvStore s).outb = s.outb := rfl

@[simp] theorem nvStore_lastSec (s : State) : (nvStore s).lastSec = s.lastSec := rfl

@[simp] theorem nvStore_hw (s : State) : (nvStore s).hw = s.hw := rfl

@[simp] theorem nvStore_now (s : State) : (nvStore s).now = s.now := rfl

@[simp] theorem nvStore_uptimeUs (s : State) : (nvStore s).uptimeUs = s.uptimeUs := rfl

@[simp] theorem nvStore_consOut (s : State) : (nvStore s).consOut = s.consOut := rfl

@[simp] theorem nvStore_consIn (s : State) : (nvStore s).consIn = s.consIn := rfl

@[simp] theorem nvStore_cfg (s : State) : (nvStore s).cfg = s.cfg := rfl

@[simp] theorem nvStore_map (s : State) : (nvStore s).map = s.map := rfl

@[simp] theorem nvStore_diag (s : State) : (nvStore s).diag = s.diag := rfl

@[simp] theorem nvStore_bus (s : State) : (nvStore s).bus = s.bus := rfl

@[simp] theorem nvStore_handlersEnabled (s : State) : (nvStore s).handlersEnabled = s.handlersEnabled := rfl

@[simp] theorem nvStore_host (s : State) : (nvStore s).host = s.host := rfl

@[simp] theorem nvStore_events (s : State) : (nvStore s).events = s.events := rfl

/-- A list of masked stores changes the bank alone. -/
theorem foldl_storeMasked_eq {α : Type} (f : α → BankNo × Nibble) (g : α → Nibble) (l : List α) (s : State) :
    l.foldl (fun t x => storeMasked (f x).1 (f x).2 (g x) t) s =
      { s with bank := (l.foldl (fun t x => storeMasked (f x).1 (f x).2 (g x) t) s).bank } := by
  induction l generalizing s with
  | nil => rfl
  | cons x l ih =>
    rw [List.foldl_cons, ih]
    rfl

theorem digitsOfHw_eq (s : State) : digitsOfHw s = { s with bank := (digitsOfHw s).bank } :=
  foldl_storeMasked_eq (fun c : BankNo × Nibble × Nat => (c.1, c.2.1)) (fun c => BitVec.ofNat 4 c.2.2) _ s

theorem nvRestore_eq (s : State) : nvRestore s = { s with bank := (nvRestore s).bank } := by
  unfold nvRestore
  split
  · exact foldl_storeMasked_eq id (fun c => backupRead s.nv c.1 c.2) _ s
  · rfl

/-! `digitsOfHw` changes bank only. -/

@[simp] theorem digitsOfHw_params (s : State) : (digitsOfHw s).params = s.params := by rw [digitsOfHw_eq]

@[simp] theorem digitsOfHw_curBank (s : State) : (digitsOfHw s).curBank = s.curBank := by rw [digitsOfHw_eq]

@[simp] theorem digitsOfHw_timerEnabled (s : State) : (digitsOfHw s).timerEnabled = s.timerEnabled := by rw [digitsOfHw_eq]

@[simp] theorem digitsOfHw_timeDirty (s : State) : (digitsOfHw s).timeDirty = s.timeDirty := by rw [digitsOfHw_eq]

@[simp] theorem digitsOfHw_ramDirty (s : State) : (digitsOfHw s).ramDirty = s.ramDirty := by rw [digitsOfHw_eq]

@[simp] theorem digitsOfHw_inb (s : State) : (digitsOfHw s).inb = s.inb := by rw [digitsOfHw_eq]

@[simp] theorem digitsOfHw_outb (s : State) : (digitsOfHw s).outb = s.outb := by rw [digitsOfHw_eq]

@[simp] theorem digitsOfHw_lastSec (s : State) : (digitsOfHw s).lastSec = s.lastSec := by rw [digitsOfHw_eq]

@[simp] theorem digitsOfHw_nv (s : State) : (digitsOfHw s).nv = s.nv := by rw [digitsOfHw_eq]

@[simp] theorem digitsOfHw_hw (s : State) : (digitsOfHw s).hw = s.hw := by rw [digitsOfHw_eq]

@[simp] theorem digitsOfHw_now (s : State) : (digitsOfHw s).now = s.now := by rw [digitsOfHw_eq]

@[simp] theorem digitsOfHw_uptimeUs (s : State) : (digitsOfHw s).uptimeUs = s.uptimeUs := by rw [digitsOfHw_eq]

@[simp] theorem digitsOfHw_consOut (s : State) : (digitsOfHw s).consOut = s.consOut := by rw [digitsOfHw_eq]

@[simp] theorem digitsOfHw_consIn (s : State) : (digitsOfHw s).consIn = s.consIn := by rw [digitsOfHw_eq]

@[simp] theorem digitsOfHw_cfg (s : State) : (digitsOfHw s).cfg = s.cfg := by rw [digitsOfHw_eq]

@[simp] theorem digitsOfHw_map (s : State) : (digitsOfHw s).map = s.map := by rw [digitsOfHw_eq]

@[simp] theorem digitsOfHw_diag (s : State) : (digitsOfHw s).diag = s.diag := by rw [digitsOfHw_eq]

@[simp] theorem digitsOfHw_bus (s : State) : (digitsOfHw s).bus = s.bus := by rw [digitsOfHw_eq]

@[simp] theorem digitsOfHw_handlersEnabled (s : State) : (digitsOfHw s).handlersEnabled = s.handlersEnabled := by rw [digitsOfHw_eq]

@[simp] theorem digitsOfHw_host (s : State) : (digitsOfHw s).host = s.host := by rw [digitsOfHw_eq]

@[simp] theorem digitsOfHw_events (s : State) : (digitsOfHw s).events = s.events := by rw [digitsOfHw_eq]

/-! `nvRestore` changes bank only. -/

@[simp] theorem nvRestore_params (s : State) : (nvRestore s).params = s.params := by rw [nvRestore_eq]

@[simp] theorem nvRestore_curBank (s : State) : (nvRestore s).curBank = s.curBank := by rw [nvRestore_eq]

@[simp] theorem nvRestore_timerEnabled (s : State) : (nvRestore s).timerEnabled = s.timerEnabled := by rw [nvRestore_eq]

@[simp] theorem nvRestore_timeDirty (s : State) : (nvRestore s).timeDirty = s.timeDirty := by rw [nvRestore_eq]

@[simp] theorem nvRestore_ramDirty (s : State) : (nvRestore s).ramDirty = s.ramDirty := by rw [nvRestore_eq]

@[simp] theorem nvRestore_inb (s : State) : (nvRestore s).inb = s.inb := by rw [nvRestore_eq]

@[simp] theorem nvRestore_outb (s : State) : (nvRestore s).outb = s.outb := by rw [nvRestore_eq]

@[simp] theorem nvRestore_lastSec (s : State) : (nvRestore s).lastSec = s.lastSec := by rw [nvRestore_eq]

@[simp] theorem nvRestore_nv (s : State) : (nvRestore s).nv = s.nv := by rw [nvRestore_eq]

@[simp] theorem nvRestore_hw (s : State) : (nvRestore s).hw = s.hw := by rw [nvRestore_eq]

@[simp] theorem nvRestore_now (s : State) : (nvRestore s).now = s.now := by rw [nvRestore_eq]

@[simp] theorem nvRestore_uptimeUs (s : State) : (nvRestore s).uptimeUs = s.uptimeUs := by rw [nvRestore_eq]

@[simp] theorem nvRestore_consOut (s : State) : (nvRestore s).consOut = s.consOut := by rw [nvRestore_eq]

@[simp] theorem nvRestore_consIn (s : State) : (nvRestore s).consIn = s.consIn := by rw [nvRestore_eq]

@[simp] theorem nvRestore_cfg (s : State) : (nvRestore s).cfg = s.cfg := by rw [nvRestore_eq]

@[simp] theorem nvRestore_map (s : State) : (nvRestore s).map = s.map := by rw [nvRestore_eq]

@[simp] theorem nvRestore_diag (s : State) : (nvRestore s).diag = s.diag := by rw [nvRestore_eq]

@[simp] theorem nvRestore_bus (s : State) : (nvRestore s).bus = s.bus := by rw [nvRestore_eq]

@[simp] theorem nvRestore_handlersEnabled (s : State) : (nvRestore s).handlersEnabled = s.handlersEnabled := by rw [nvRestore_eq]

@[simp] theorem nvRestore_host (s : State) : (nvRestore s).host = s.host := by rw [nvRestore_eq]

@[simp] theorem nvRestore_events (s : State) : (nvRestore s).events = s.events := by rw [nvRestore_eq]

/-! `openCycle` changes bus only. -/

@[simp] theorem openCycle_params (c : BusCycle) (s : State) : (openCycle c s).params = s.params := rfl

@[simp] theorem openCycle_bank (c : BusCycle) (s : State) : (openCycle c s).bank = s.bank := rfl

@[simp] theorem openCycle_curBank (c : BusCycle) (s : State) : (openCycle c s).curBank = s.curBank := rfl

@[simp] theorem openCycle_timerEnabled (c : BusCycle) (s : State) : (openCycle c s).timerEnabled = s.timerEnabled := rfl

@[simp] theorem openCycle_timeDirty (c : BusCycle) (s : State) : (openCycle c s).timeDirty = s.timeDirty := rfl

@[simp] theorem openCycle_ramDirty (c : BusCycle) (s : State) : (openCycle c s).ramDirty = s.ramDirty := rfl

@[simp] theorem openCycle_inb (c : BusCycle) (s : State) : (openCycle c s).inb = s.inb := rfl

@[simp] theorem openCycle_outb (c : BusCycle) (s : State) : (openCycle c s).outb = s.outb := rfl

@[simp] theorem openCycle_lastSec (c : BusCycle) (s : State) : (openCycle c s).lastSec = s.lastSec := rfl

@[simp] theorem openCycle_nv (c : BusCycle) (s : State) : (openCycle c s).nv = s.nv := rfl

@[simp] theorem openCycle_hw (c : BusCycle) (s : State) : (openCycle c s).hw = s.hw := rfl

@[simp] theorem openCycle_now (c : BusCycle) (s : State) : (openCycle c s).now = s.now := rfl

@[simp] theorem openCycle_uptimeUs (c : BusCycle) (s : State) : (openCycle c s).uptimeUs = s.uptimeUs := rfl

@[simp] theorem openCycle_consOut (c : BusCycle) (s : State) : (openCycle c s).consOut = s.consOut := rfl

@[simp] theorem openCycle_consIn (c : BusCycle) (s : State) : (openCycle c s).consIn = s.consIn := rfl

@[simp] theorem openCycle_cfg (c : BusCycle) (s : State) : (openCycle c s).cfg = s.cfg := rfl

@[simp] theorem openCycle_map (c : BusCycle) (s : State) : (openCycle c s).map = s.map := rfl

@[simp] theorem openCycle_diag (c : BusCycle) (s : State) : (openCycle c s).diag = s.diag := rfl

@[simp] theorem openCycle_handlersEnabled (c : BusCycle) (s : State) : (openCycle c s).handlersEnabled = s.handlersEnabled := rfl

@[simp] theorem openCycle_host (c : BusCycle) (s : State) : (openCycle c s).host = s.host := rfl

@[simp] theorem openCycle_events (c : BusCycle) (s : State) : (openCycle c s).events = s.events := rfl

/-! `setHost` changes host only. -/

@[simp] theorem setHost_params (h : HostAgent) (s : State) : (setHost h s).params = s.params := rfl

@[simp] theorem setHost_bank (h : HostAgent) (s : State) : (setHost h s).bank = s.bank := rfl

@[simp] theorem setHost_curBank (h : HostAgent) (s : State) : (setHost h s).curBank = s.curBank := rfl

@[simp] theorem setHost_timerEnabled (h : HostAgent) (s : State) : (setHost h s).timerEnabled = s.timerEnabled := rfl

@[simp] theorem setHost_timeDirty (h : HostAgent) (s : State) : (setHost h s).timeDirty = s.timeDirty := rfl

@[simp] theorem setHost_ramDirty (h : HostAgent) (s : State) : (setHost h s).ramDirty = s.ramDirty := rfl

@[simp] theorem setHost_inb (h : HostAgent) (s : State) : (setHost h s).inb = s.inb := rfl

@[simp] theorem setHost_outb (h : HostAgent) (s : State) : (setHost h s).outb = s.outb := rfl

@[simp] theorem setHost_lastSec (h : HostAgent) (s : State) : (setHost h s).lastSec = s.lastSec := rfl

@[simp] theorem setHost_nv (h : HostAgent) (s : State) : (setHost h s).nv = s.nv := rfl

@[simp] theorem setHost_hw (h : HostAgent) (s : State) : (setHost h s).hw = s.hw := rfl

@[simp] theorem setHost_now (h : HostAgent) (s : State) : (setHost h s).now = s.now := rfl

@[simp] theorem setHost_uptimeUs (h : HostAgent) (s : State) : (setHost h s).uptimeUs = s.uptimeUs := rfl

@[simp] theorem setHost_consOut (h : HostAgent) (s : State) : (setHost h s).consOut = s.consOut := rfl

@[simp] theorem setHost_consIn (h : HostAgent) (s : State) : (setHost h s).consIn = s.consIn := rfl

@[simp] theorem setHost_cfg (h : HostAgent) (s : State) : (setHost h s).cfg = s.cfg := rfl

@[simp] theorem setHost_map (h : HostAgent) (s : State) : (setHost h s).map = s.map := rfl

@[simp] theorem setHost_diag (h : HostAgent) (s : State) : (setHost h s).diag = s.diag := rfl

@[simp] theorem setHost_bus (h : HostAgent) (s : State) : (setHost h s).bus = s.bus := rfl

@[simp] theorem setHost_handlersEnabled (h : HostAgent) (s : State) : (setHost h s).handlersEnabled = s.handlersEnabled := rfl

@[simp] theorem setHost_events (h : HostAgent) (s : State) : (setHost h s).events = s.events := rfl

@[simp] theorem setHost_host (h : HostAgent) (s : State) : (setHost h s).host = h := rfl

/-! `setCall` changes host only. -/

@[simp] theorem setCall_params (k : Nat) (c : HostCall) (s : State) : (setCall k c s).params = s.params := rfl

@[simp] theorem setCall_bank (k : Nat) (c : HostCall) (s : State) : (setCall k c s).bank = s.bank := rfl

@[simp] theorem setCall_curBank (k : Nat) (c : HostCall) (s : State) : (setCall k c s).curBank = s.curBank := rfl

@[simp] theorem setCall_timerEnabled (k : Nat) (c : HostCall) (s : State) : (setCall k c s).timerEnabled = s.timerEnabled := rfl

@[simp] theorem setCall_timeDirty (k : Nat) (c : HostCall) (s : State) : (setCall k c s).timeDirty = s.timeDirty := rfl

@[simp] theorem setCall_ramDirty (k : Nat) (c : HostCall) (s : State) : (setCall k c s).ramDirty = s.ramDirty := rfl

@[simp] theorem setCall_inb (k : Nat) (c : HostCall) (s : State) : (setCall k c s).inb = s.inb := rfl

@[simp] theorem setCall_outb (k : Nat) (c : HostCall) (s : State) : (setCall k c s).outb = s.outb := rfl

@[simp] theorem setCall_lastSec (k : Nat) (c : HostCall) (s : State) : (setCall k c s).lastSec = s.lastSec := rfl

@[simp] theorem setCall_nv (k : Nat) (c : HostCall) (s : State) : (setCall k c s).nv = s.nv := rfl

@[simp] theorem setCall_hw (k : Nat) (c : HostCall) (s : State) : (setCall k c s).hw = s.hw := rfl

@[simp] theorem setCall_now (k : Nat) (c : HostCall) (s : State) : (setCall k c s).now = s.now := rfl

@[simp] theorem setCall_uptimeUs (k : Nat) (c : HostCall) (s : State) : (setCall k c s).uptimeUs = s.uptimeUs := rfl

@[simp] theorem setCall_consOut (k : Nat) (c : HostCall) (s : State) : (setCall k c s).consOut = s.consOut := rfl

@[simp] theorem setCall_consIn (k : Nat) (c : HostCall) (s : State) : (setCall k c s).consIn = s.consIn := rfl

@[simp] theorem setCall_cfg (k : Nat) (c : HostCall) (s : State) : (setCall k c s).cfg = s.cfg := rfl

@[simp] theorem setCall_map (k : Nat) (c : HostCall) (s : State) : (setCall k c s).map = s.map := rfl

@[simp] theorem setCall_diag (k : Nat) (c : HostCall) (s : State) : (setCall k c s).diag = s.diag := rfl

@[simp] theorem setCall_bus (k : Nat) (c : HostCall) (s : State) : (setCall k c s).bus = s.bus := rfl

@[simp] theorem setCall_handlersEnabled (k : Nat) (c : HostCall) (s : State) : (setCall k c s).handlersEnabled = s.handlersEnabled := rfl

@[simp] theorem setCall_events (k : Nat) (c : HostCall) (s : State) : (setCall k c s).events = s.events := rfl

@[simp] theorem setCall_host (k : Nat) (c : HostCall) (s : State) :
    (setCall k c s).host = { s.host with calls := s.host.calls.set k c } := rfl

/-! `setHostIrq` changes host only. -/

@[simp] theorem setHostIrq_params (on : Bool) (s : State) : (setHostIrq on s).params = s.params := rfl

@[simp] theorem setHostIrq_bank (on : Bool) (s : State) : (setHostIrq on s).bank = s.bank := rfl

@[simp] theorem setHostIrq_curBank (on : Bool) (s : State) : (setHostIrq on s).curBank = s.curBank := rfl

@[simp] theorem setHostIrq_timerEnabled (on : Bool) (s : State) : (setHostIrq on s).timerEnabled = s.timerEnabled := rfl

@[simp] theorem setHostIrq_timeDirty (on : Bool) (s : State) : (setHostIrq on s).timeDirty = s.timeDirty := rfl

@[simp] theorem setHostIrq_ramDirty (on : Bool) (s : State) : (setHostIrq on s).ramDirty = s.ramDirty := rfl

@[simp] theorem setHostIrq_inb (on : Bool) (s : State) : (setHostIrq on s).inb = s.inb := rfl

@[simp] theorem setHostIrq_outb (on : Bool) (s : State) : (setHostIrq on s).outb = s.outb := rfl

@[simp] theorem setHostIrq_lastSec (on : Bool) (s : State) : (setHostIrq on s).lastSec = s.lastSec := rfl

@[simp] theorem setHostIrq_nv (on : Bool) (s : State) : (setHostIrq on s).nv = s.nv := rfl

@[simp] theorem setHostIrq_hw (on : Bool) (s : State) : (setHostIrq on s).hw = s.hw := rfl

@[simp] theorem setHostIrq_now (on : Bool) (s : State) : (setHostIrq on s).now = s.now := rfl

@[simp] theorem setHostIrq_uptimeUs (on : Bool) (s : State) : (setHostIrq on s).uptimeUs = s.uptimeUs := rfl

@[simp] theorem setHostIrq_consOut (on : Bool) (s : State) : (setHostIrq on s).consOut = s.consOut := rfl

@[simp] theorem setHostIrq_consIn (on : Bool) (s : State) : (setHostIrq on s).consIn = s.consIn := rfl

@[simp] theorem setHostIrq_cfg (on : Bool) (s : State) : (setHostIrq on s).cfg = s.cfg := rfl

@[simp] theorem setHostIrq_map (on : Bool) (s : State) : (setHostIrq on s).map = s.map := rfl

@[simp] theorem setHostIrq_diag (on : Bool) (s : State) : (setHostIrq on s).diag = s.diag := rfl

@[simp] theorem setHostIrq_bus (on : Bool) (s : State) : (setHostIrq on s).bus = s.bus := rfl

@[simp] theorem setHostIrq_handlersEnabled (on : Bool) (s : State) : (setHostIrq on s).handlersEnabled = s.handlersEnabled := rfl

@[simp] theorem setHostIrq_events (on : Bool) (s : State) : (setHostIrq on s).events = s.events := rfl

@[simp] theorem setHostIrq_host (on : Bool) (s : State) :
    (setHostIrq on s).host = { s.host with irqEnabled := on } := rfl

/-! `markDirty` changes timeDirty, ramDirty only. -/

@[simp] theorem markDirty_params (b : BankNo) (s : State) : (markDirty b s).params = s.params := by
  unfold markDirty
  split <;> rfl

@[simp] theorem markDirty_bank (b : BankNo) (s : State) : (markDirty b s).bank = s.bank := by
  unfold markDirty
  split <;> rfl

@[simp] theorem markDirty_curBank (b : BankNo) (s : State) : (markDirty b s).curBank = s.curBank := by
  unfold markDirty
  split <;> rfl

@[simp] theorem markDirty_timerEnabled (b : BankNo) (s : State) : (markDirty b s).timerEnabled = s.timerEnabled := by
  unfold markDirty
  split <;> rfl

@[simp] theorem markDirty_inb (b : BankNo) (s : State) : (markDirty b s).inb = s.inb := by
  unfold markDirty
  split <;> rfl

@[simp] theorem markDirty_outb (b : BankNo) (s : State) : (markDirty b s).outb = s.outb := by
  unfold markDirty
  split <;> rfl

@[simp] theorem markDirty_lastSec (b : BankNo) (s : State) : (markDirty b s).lastSec = s.lastSec := by
  unfold markDirty
  split <;> rfl

@[simp] theorem markDirty_nv (b : BankNo) (s : State) : (markDirty b s).nv = s.nv := by
  unfold markDirty
  split <;> rfl

@[simp] theorem markDirty_hw (b : BankNo) (s : State) : (markDirty b s).hw = s.hw := by
  unfold markDirty
  split <;> rfl

@[simp] theorem markDirty_now (b : BankNo) (s : State) : (markDirty b s).now = s.now := by
  unfold markDirty
  split <;> rfl

@[simp] theorem markDirty_uptimeUs (b : BankNo) (s : State) : (markDirty b s).uptimeUs = s.uptimeUs := by
  unfold markDirty
  split <;> rfl

@[simp] theorem markDirty_consOut (b : BankNo) (s : State) : (markDirty b s).consOut = s.consOut := by
  unfold markDirty
  split <;> rfl

@[simp] theorem markDirty_consIn (b : BankNo) (s : State) : (markDirty b s).consIn = s.consIn := by
  unfold markDirty
  split <;> rfl

@[simp] theorem markDirty_cfg (b : BankNo) (s : State) : (markDirty b s).cfg = s.cfg := by
  unfold markDirty
  split <;> rfl

@[simp] theorem markDirty_map (b : BankNo) (s : State) : (markDirty b s).map = s.map := by
  unfold markDirty
  split <;> rfl

@[simp] theorem markDirty_diag (b : BankNo) (s : State) : (markDirty b s).diag = s.diag := by
  unfold markDirty
  split <;> rfl

@[simp] theorem markDirty_bus (b : BankNo) (s : State) : (markDirty b s).bus = s.bus := by
  unfold markDirty
  split <;> rfl

@[simp] theorem markDirty_handlersEnabled (b : BankNo) (s : State) : (markDirty b s).handlersEnabled = s.handlersEnabled := by
  unfold markDirty
  split <;> rfl

@[simp] theorem markDirty_host (b : BankNo) (s : State) : (markDirty b s).host = s.host := by
  unfold markDirty
  split <;> rfl

@[simp] theorem markDirty_events (b : BankNo) (s : State) : (markDirty b s).events = s.events := by
  unfold markDirty
  split <;> rfl

end Sys2Proof.Machine
end

