-- ==== Sys2Proof/Laws/Bank.lean ====
section
/-! SUPPORT. The laws of the register bank: read after write, and the cells each operation leaves alone. -/

namespace Sys2Proof.Machine

theorem cellIndex_inj {b b' : BankNo} {a a' : Nibble} (h : cellIndex b a = cellIndex b' a') : b = b' ∧ a = a' := by
  have h1 := Fin.ext_iff.mp h
  simp only [cellIndex] at h1
  have := a.isLt
  have := a'.isLt
  exact ⟨BitVec.eq_of_toNat_eq (by omega), BitVec.eq_of_toNat_eq (by omega)⟩

/-- Read after write (R11, R81): the written cell, and every other cell as before. -/
theorem State.cell_setCell (s : State) (b : BankNo) (a v : Nibble) (b' : BankNo) (a' : Nibble) :
    (s.setCell b a v).cell b' a' = if b' = b ∧ a' = a then v else s.cell b' a' := by
  by_cases h : b' = b ∧ a' = a
  · obtain ⟨rfl, rfl⟩ := h
    simp [State.cell, State.setCell, Vector.get_eq_getElem]
  · have hne : (cellIndex b a).val ≠ (cellIndex b' a').val := fun e => h (by
      obtain ⟨h1, h2⟩ := cellIndex_inj (Fin.ext e)
      exact ⟨h1.symm, h2.symm⟩)
    rw [if_neg h]
    simp only [State.cell, State.setCell, Vector.get_eq_getElem]
    exact Vector.getElem_set_ne _ _ hne

@[simp] theorem State.cell_setCell_same (s : State) (b : BankNo) (a v : Nibble) : (s.setCell b a v).cell b a = v := by
  simp [State.cell_setCell]

theorem State.cell_setCell_other (s : State) {b b' : BankNo} {a a' : Nibble} (v : Nibble) (h : ¬ (b' = b ∧ a' = a)) :
    (s.setCell b a v).cell b' a' = s.cell b' a' := by
  simp [State.cell_setCell, h]

/-- A cell is read from the bank alone. -/
theorem State.cell_congr {s t : State} (h : t.bank = s.bank) (b : BankNo) (a : Nibble) : t.cell b a = s.cell b a := by
  simp [State.cell, h]

/-- All of a masked store (R24). -/
theorem cell_storeMasked (b : BankNo) (a d : Nibble) (s : State) (b' : BankNo) (a' : Nibble) :
    (storeMasked b a d s).cell b' a' = if b' = b ∧ a' = a then d &&& wmask b a else s.cell b' a' :=
  State.cell_setCell s b a _ b' a'

/-- The two channel cells, and no other. -/
theorem cell_setChannel (h l : Nibble) (s : State) (b : BankNo) (a : Nibble) :
    (setChannel h l s).cell b a =
      if b = msgBank ∧ a = msgLoAddr then l else if b = msgBank ∧ a = msgHiAddr then h else s.cell b a := by
  simp [setChannel, State.cell_setCell]

/-- `wr_mode` writes the four `MODE` cells (R176), and no other. -/
theorem cell_setMode (d : Nibble) (s : State) (b : BankNo) (a : Nibble) :
    (setMode d s).cell b a = if a = modeAddr then d else s.cell b a := by
  have hb : b = 0#2 ∨ b = 1#2 ∨ b = 2#2 ∨ b = 3#2 := by
    revert b
    decide
  have h : (setMode d s).cell b a =
      ((((s.setCell 0#2 modeAddr d).setCell 1#2 modeAddr d).setCell 2#2 modeAddr d).setCell 3#2 modeAddr d).cell b a :=
    State.cell_congr rfl b a
  rw [h]
  simp only [State.cell_setCell]
  rcases hb with rfl | rfl | rfl | rfl <;> by_cases ha : a = modeAddr <;> simp [ha]

/-- `alarm_clear` writes the seven alarm cells (R179), and no other. -/
theorem cell_alarmClear (s : State) (b : BankNo) (a : Nibble) :
    (alarmClear s).cell b a = if b = 1#2 ∧ 0x2#4 ≤ a ∧ a ≤ 0x8#4 then 0#4 else s.cell b a := by
  have ha : (0x2#4 ≤ a ∧ a ≤ 0x8#4) ↔
      (a = 0x8#4 ∨ a = 0x7#4 ∨ a = 0x6#4 ∨ a = 0x5#4 ∨ a = 0x4#4 ∨ a = 0x3#4 ∨ a = 0x2#4) := by
    revert a
    decide
  have h : (alarmClear s).cell b a =
      (((((((s.setCell 1#2 0x2#4 0#4).setCell 1#2 0x3#4 0#4).setCell 1#2 0x4#4 0#4).setCell 1#2 0x5#4 0#4).setCell
        1#2 0x6#4 0#4).setCell 1#2 0x7#4 0#4).setCell 1#2 0x8#4 0#4).cell b a := State.cell_congr rfl b a
  rw [h]
  simp only [State.cell_setCell, ha]
  by_cases hb : b = 1#2
  · simp only [hb, true_and]
    split_ifs <;> simp_all
  · simp [hb]

/-- `proto_reset` clears the two channel cells (R180), and no other. -/
theorem cell_protoReset (s : State) (b : BankNo) (a : Nibble) :
    (protoReset s).cell b a =
      if b = msgBank ∧ a = msgLoAddr then 0#4 else if b = msgBank ∧ a = msgHiAddr then 0#4 else s.cell b a :=
  cell_setChannel 0#4 0#4 _ b a

/-- A list of masked stores at distinct cells: a cell outside the list keeps its value. -/
theorem cell_foldl_storeMasked_other {α : Type} (f : α → BankNo × Nibble) (g : α → Nibble) (l : List α) (s : State)
    (b : BankNo) (a : Nibble) (h : ∀ x ∈ l, f x ≠ (b, a)) :
    (l.foldl (fun t x => storeMasked (f x).1 (f x).2 (g x) t) s).cell b a = s.cell b a := by
  induction l generalizing s with
  | nil => rfl
  | cons x l ih =>
    have hx : f x ≠ (b, a) := h x List.mem_cons_self
    rw [List.foldl_cons, ih _ (fun y hy => h y (List.mem_cons_of_mem _ hy)), cell_storeMasked, if_neg]
    rintro ⟨rfl, rfl⟩
    exact hx rfl

@[simp] theorem cell_driveRead (v : Nibble) (s : State) (b : BankNo) (a : Nibble) :
    (driveRead v s).cell b a = s.cell b a := rfl

@[simp] theorem cell_clearInbound (s : State) (b : BankNo) (a : Nibble) : (clearInbound s).cell b a = s.cell b a := rfl

@[simp] theorem cell_clearDirty (s : State) (b : BankNo) (a : Nibble) : (clearDirty s).cell b a = s.cell b a := rfl

@[simp] theorem cell_nvStore (s : State) (b : BankNo) (a : Nibble) : (nvStore s).cell b a = s.cell b a := rfl

@[simp] theorem cell_hwCommit (f : DateTime) (s : State) (b : BankNo) (a : Nibble) :
    (hwCommit f s).cell b a = s.cell b a := rfl

@[simp] theorem cell_openCycle (c : BusCycle) (s : State) (b : BankNo) (a : Nibble) :
    (openCycle c s).cell b a = s.cell b a := rfl

@[simp] theorem cell_setHost (h : HostAgent) (s : State) (b : BankNo) (a : Nibble) :
    (setHost h s).cell b a = s.cell b a := rfl

@[simp] theorem cell_setCall (k : Nat) (c : HostCall) (s : State) (b : BankNo) (a : Nibble) :
    (setCall k c s).cell b a = s.cell b a := rfl

@[simp] theorem cell_setHostIrq (on : Bool) (s : State) (b : BankNo) (a : Nibble) :
    (setHostIrq on s).cell b a = s.cell b a := rfl

@[simp] theorem cell_markDirty (b' : BankNo) (s : State) (b : BankNo) (a : Nibble) :
    (markDirty b' s).cell b a = s.cell b a := State.cell_congr (markDirty_bank b' s) b a

end Sys2Proof.Machine
end

