-- ==== Sys2Proof/Laws/Bytes.lean ====
section
/-! SUPPORT. The laws of nibbles, bytes, big-endian numbers, the CRC's fold and frames. -/

namespace Sys2Proof.Machine

open Sys2Proof.Config

@[simp] theorem hiNibble_byteOf (h l : Nibble) : hiNibble (byteOf h l) = h := by
  revert h l
  decide

@[simp] theorem loNibble_byteOf (h l : Nibble) : loNibble (byteOf h l) = l := by
  revert h l
  decide

/-- `16 * h + l` (R217). -/
theorem byteOf_toNat (h l : Nibble) : (byteOf h l).toNat = 16 * h.toNat + l.toNat := by
  revert h l
  decide

theorem byteOf_hi_lo (b : Byte) : byteOf (hiNibble b) (loNibble b) = b := by
  revert b
  decide

@[simp] theorem evalFirst_eq {α : Type} (n : Nat) (k : Nat → α) : evalFirst n k = k n := by
  cases n <;> rfl

theorem crcFold_eq_foldl (c : Word32) (bytes : List Byte) : crcFold c bytes = bytes.foldl crcByte c := by
  induction bytes generalizing c with
  | nil => rfl
  | cons b bs ih => simp [crcFold, ih]

@[simp] theorem beBytes_length (n v : Nat) : (beBytes n v).length = n := by
  induction n with
  | zero => rfl
  | succ n ih => simp [beBytes, ih]

theorem beNat_append (bs : List Byte) (b : Byte) : beNat (bs ++ [b]) = 256 * beNat bs + b.toNat := by
  simp [beNat]

theorem beNat_cons (b : Byte) (bs : List Byte) : beNat (b :: bs) = b.toNat * 256 ^ bs.length + beNat bs := by
  induction bs using List.reverseRecOn with
  | nil => simp [beNat]
  | append_singleton bs c ih =>
    rw [← List.cons_append, beNat_append, ih, beNat_append]
    simp only [List.length_append, List.length_cons, List.length_nil, Nat.zero_add, Nat.pow_succ]
    ring

theorem beNat_lt (bs : List Byte) : beNat bs < 256 ^ bs.length := by
  induction bs with
  | nil => simp [beNat]
  | cons b bs ih =>
    rw [beNat_cons, List.length_cons, Nat.pow_succ]
    have hb : b.toNat < 256 := b.isLt
    nlinarith [Nat.pos_of_ne_zero (pow_ne_zero bs.length (show (256 : Nat) ≠ 0 by decide))]

/-- `be` undoes `BE`, modulo the width. -/
theorem beNat_beBytes (n v : Nat) : beNat (beBytes n v) = v % 256 ^ n := by
  induction n with
  | zero => simp [beBytes, beNat, Nat.mod_one]
  | succ n ih =>
    have h : v % (256 ^ n * 256) = v % 256 ^ n + 256 ^ n * (v / 256 ^ n % 256) := Nat.mod_mul
    rw [beBytes, beNat_cons, ih, beBytes_length, BitVec.toNat_ofNat, show 256 ^ (n + 1) = 256 ^ n * 256 from rfl, h,
      Nat.mul_comm, Nat.add_comm]

@[simp] theorem padTo_length (n : Nat) (bytes : List Byte) : (padTo n bytes).length = n := by
  simp [padTo]
  omega

/-- A frame is the header, the payload and the trailer (R104, R105). -/
theorem frameBytes_length (p : Params) (n : Nat) (first : Byte) (payload : List Byte) :
    (frameBytes p first n payload).length = 3 + p.lenWidth + payload.length + crcLen := by
  simp [frameBytes, crcLen]
  omega

end Sys2Proof.Machine
end

