-- ==== Sys2Proof/Laws/Memory.lean ====
section
/-! SUPPORT. The laws of the byte spaces: read after write, the bytes a write leaves alone, the canonical form kept. -/

namespace Sys2Proof.Machine

theorem Memory.read_nil (a : Nat) : Memory.read [] a = unlistedByte := rfl

theorem Memory.read_cons (c : Host.Cell) (m : Memory) (a : Nat) :
    Memory.read (c :: m) a = if c.1 = a then c.2 else Memory.read m a := rfl

theorem Memory.read_filter_same (m : Memory) (a : Nat) :
    Memory.read (m.filter (fun c => c.1 != a)) a = unlistedByte := by
  induction m with
  | nil => rfl
  | cons c m ih =>
    by_cases h : c.1 = a
    · simp [h, ih]
    · simp [h, Memory.read_cons, ih]

theorem Memory.read_filter_other (m : Memory) {a a' : Nat} (h : a' ≠ a) :
    Memory.read (m.filter (fun c => c.1 != a)) a' = Memory.read m a' := by
  induction m with
  | nil => rfl
  | cons c m ih =>
    by_cases hc : c.1 = a
    · have : c.1 ≠ a' := fun e => h (by omega)
      simp only [List.filter_cons, bne_iff_ne, ne_eq, hc, not_true, if_false, ih, Memory.read_cons]
      simp [hc ▸ this]
    · simp only [List.filter_cons, bne_iff_ne, ne_eq, hc, not_false_iff, if_true, ih, Memory.read_cons]

/-- Only the entries in front of the new one can hide it. -/
theorem Memory.read_insertCell (m : Memory) (c : Host.Cell) (a : Nat) (h : ∀ c' ∈ m, c'.1 ≠ c.1) :
    Memory.read (Memory.insertCell m c) a = if c.1 = a then c.2 else Memory.read m a := by
  induction m with
  | nil => rfl
  | cons c' m ih =>
    have hm : ∀ x ∈ m, x.1 ≠ c.1 := fun x hx => h x (List.mem_cons_of_mem _ hx)
    have hc : c'.1 ≠ c.1 := h c' List.mem_cons_self
    simp only [Memory.insertCell]
    split
    · rfl
    · simp only [Memory.read_cons, ih hm]
      split <;> split <;> simp_all

theorem Memory.filter_ne (m : Memory) (a : Nat) : ∀ c ∈ m.filter (fun c => c.1 != a), c.1 ≠ a := by
  intro c hc
  simpa using (List.mem_filter.mp hc).2

/-- All that a write does to what is read: the written byte at its address, every other byte as before. -/
theorem Memory.read_write (m : Memory) (a : Nat) (v : Byte) (a' : Nat) :
    Memory.read (Memory.write m a v) a' = if a' = a then v else Memory.read m a' := by
  unfold Memory.write
  by_cases hv : v = unlistedByte
  · simp only [hv, if_true]
    split
    · next h => rw [h, Memory.read_filter_same]
    · next h => exact Memory.read_filter_other m h
  · simp only [hv, if_false]
    rw [Memory.read_insertCell _ _ _ (Memory.filter_ne m a)]
    by_cases h : a' = a
    · simp [h]
    · rw [Memory.read_filter_other m h]
      simp [h, Ne.symm h]

@[simp] theorem Memory.read_write_same (m : Memory) (a : Nat) (v : Byte) :
    Memory.read (Memory.write m a v) a = v := by simp [Memory.read_write]

theorem Memory.read_write_other (m : Memory) {a a' : Nat} (v : Byte) (h : a' ≠ a) :
    Memory.read (Memory.write m a v) a' = Memory.read m a' := by simp [Memory.read_write, h]

theorem Memory.mem_insertCell {m : Memory} {c x : Host.Cell} : x ∈ Memory.insertCell m c → x = c ∨ x ∈ m := by
  induction m with
  | nil => simp [Memory.insertCell]
  | cons c' m ih =>
    simp only [Memory.insertCell]
    split
    · simp
    · simp only [List.mem_cons]
      rintro (h | h)
      · exact .inr (.inl h)
      · rcases ih h with h | h
        · exact .inl h
        · exact .inr (.inr h)

theorem Memory.insertCell_wf {m : Memory} {c : Host.Cell} (hm : m.wf) (hc : c.2 ≠ unlistedByte)
    (hne : ∀ x ∈ m, x.1 ≠ c.1) : Memory.wf (Memory.insertCell m c) := by
  refine ⟨?_, fun x hx => (Memory.mem_insertCell hx).elim (fun h => h ▸ hc) (hm.2 x)⟩
  have hp := hm.1
  clear hm
  induction m with
  | nil => simp [Memory.insertCell]
  | cons c' m ih =>
    obtain ⟨h1, h2⟩ := List.pairwise_cons.mp hp
    have hc' : c'.1 ≠ c.1 := hne c' List.mem_cons_self
    simp only [Memory.insertCell]
    split
    · next hlt =>
      refine List.pairwise_cons.mpr ⟨fun x hx => ?_, hp⟩
      rcases List.mem_cons.mp hx with h | h
      · exact h ▸ hlt
      · exact Nat.lt_trans hlt (h1 x h)
    · next hlt =>
      refine List.pairwise_cons.mpr
        ⟨fun x hx => ?_, ih (fun x hx => hne x (List.mem_cons_of_mem _ hx)) h2⟩
      rcases Memory.mem_insertCell hx with h | h
      · subst h
        omega
      · exact h1 x h

theorem Memory.filter_wf {m : Memory} (p : Host.Cell → Bool) (hm : m.wf) : Memory.wf (m.filter p) :=
  ⟨hm.1.filter p, fun x hx => hm.2 x (List.mem_filter.mp hx).1⟩

theorem Memory.nil_wf : Memory.wf [] := by simp [Memory.wf]

/-- A write keeps the canonical form. -/
theorem Memory.write_wf {m : Memory} (a : Nat) (v : Byte) (hm : m.wf) : Memory.wf (Memory.write m a v) := by
  unfold Memory.write
  by_cases hv : v = unlistedByte
  · simp only [hv, if_true]
    exact Memory.filter_wf _ hm
  · simp only [hv, if_false]
    exact Memory.insertCell_wf (Memory.filter_wf _ hm) hv (Memory.filter_ne m a)

theorem Memory.writeBytes_wf {m : Memory} (a : Nat) (vs : List Byte) (hm : m.wf) :
    Memory.wf (Memory.writeBytes m a vs) := by
  induction vs generalizing m a with
  | nil => exact hm
  | cons v vs ih => exact ih (a + 1) (Memory.write_wf a v hm)

theorem Memory.ofBytes_wf (vs : List Byte) : Memory.wf (Memory.ofBytes vs) := Memory.writeBytes_wf 0 vs Memory.nil_wf

/-- All that a write of bytes does to what is read. -/
theorem Memory.read_writeBytes (m : Memory) (a : Nat) (vs : List Byte) (a' : Nat) :
    Memory.read (Memory.writeBytes m a vs) a' =
      if a ≤ a' ∧ a' < a + vs.length then vs.getD (a' - a) 0#8 else Memory.read m a' := by
  induction vs generalizing m a with
  | nil =>
    rw [if_neg (by simp only [List.length_nil]; omega)]
    rfl
  | cons v vs ih =>
    simp only [Memory.writeBytes, ih, Memory.read_write, List.length_cons]
    by_cases h1 : a' = a
    · subst h1
      simp
    · by_cases h2 : a + 1 ≤ a' ∧ a' < a + 1 + vs.length
      · have h3 : a ≤ a' ∧ a' < a + (vs.length + 1) := by omega
        have h4 : a' - a = (a' - (a + 1)) + 1 := by omega
        simp [h2, h3, h4]
      · have h3 : ¬ (a ≤ a' ∧ a' < a + (vs.length + 1)) := by omega
        rw [if_neg h2, if_neg h3, if_neg h1]

@[simp] theorem Memory.readBytes_length (m : Memory) (a n : Nat) : (Memory.readBytes m a n).length = n := by
  induction n generalizing a with
  | zero => rfl
  | succ n ih => simp [Memory.readBytes, ih]

/-- The bytes read are the bytes at the addresses. -/
theorem Memory.readBytes_eq_map (m : Memory) (a n : Nat) :
    Memory.readBytes m a n = (List.range n).map (fun i => Memory.read m (a + i)) := by
  induction n generalizing a with
  | zero => rfl
  | succ n ih =>
    rw [Memory.readBytes, ih, List.range_succ_eq_map]
    simp only [List.map_cons, List.map_map, Nat.add_zero, List.cons.injEq, true_and]
    refine List.map_congr_left fun i _ => ?_
    simp only [Function.comp, Nat.succ_eq_add_one]
    congr 1
    omega

theorem Memory.readBytes_congr {m m' : Memory} {a n : Nat}
    (h : ∀ i, a ≤ i → i < a + n → Memory.read m i = Memory.read m' i) :
    Memory.readBytes m a n = Memory.readBytes m' a n := by
  rw [Memory.readBytes_eq_map, Memory.readBytes_eq_map]
  refine List.map_congr_left fun i hi => h _ (by omega) ?_
  have := List.mem_range.mp hi
  omega

/-- What was written is read back. -/
theorem Memory.readBytes_writeBytes (m : Memory) (a : Nat) (vs : List Byte) :
    Memory.readBytes (Memory.writeBytes m a vs) a vs.length = vs := by
  rw [Memory.readBytes_eq_map]
  refine List.ext_getElem (by simp) fun i h1 h2 => ?_
  have h3 : i < vs.length := h2
  simp [Memory.read_writeBytes, List.getD_eq_getElem?_getD, h3]

end Sys2Proof.Machine
end

