-- ==== Sys2Proof/Laws/Ops.lean ====
section
/-! SUPPORT. One lemma for each shared operation: all that it can do. The fields it leaves alone are in
Laws/State.lean, the cells of the plain bank operations in Laws/Bank.lean. -/

namespace Sys2Proof.Machine

open Sys2Proof.Config

/-! ## The reply -/

@[simp] theorem outFinish_outb (s : State) :
    (outFinish s).outb = { s.outb with active := false, pos := 0, len := 0 } := rfl

theorem cell_outFinish (s : State) (b : BankNo) (a : Nibble) :
    (outFinish s).cell b a =
      if b = msgBank ∧ a = msgLoAddr then 0#4 else if b = msgBank ∧ a = msgHiAddr then 0#4 else s.cell b a :=
  cell_setChannel 0#4 0#4 _ b a

theorem cell_outLoad (s : State) (b : BankNo) (a : Nibble) :
    (outLoad s).cell b a =
      if b = msgBank ∧ a = msgLoAddr then loNibble (Memory.read s.outb.buf (s.outb.pos / 2))
      else if b = msgBank ∧ a = msgHiAddr then hiNibble (Memory.read s.outb.buf (s.outb.pos / 2))
      else s.cell b a :=
  cell_setChannel _ _ s b a

/-- The outbound state after `reply` (R311). -/
theorem reply_outb (st : Status) (data : List Byte) (s : State) :
    (reply st data s).outb =
      { buf := Memory.writeBytes s.outb.buf 0 (frameBytes s.params (statusCode st) data.length data)
        len := frameOverhead s.params + data.length
        pos := 0
        active := true
        deadline := s.now + outTimeoutMs } := by
  have h : data.take data.length ++ ([] : List Byte).take 0 = data := by simp
  show Outbound.mk _ _ _ _ _ = _
  simp only [h, Nat.add_zero]

/-- The first byte of any frame is `MAGIC[0]`. -/
theorem read_writeBytes_frame (m : Memory) (p : Params) (n : Nat) (first : Byte) (payload : List Byte) :
    Memory.read (Memory.writeBytes m 0 (frameBytes p first n payload)) 0 = magic0 := by
  rw [Memory.read_writeBytes]
  simp [frameBytes]

/-- The cells after `reply`: the channel shows the frame's first byte, 0xCD (R311). -/
theorem cell_reply (st : Status) (data : List Byte) (s : State) (b : BankNo) (a : Nibble) :
    (reply st data s).cell b a =
      if b = msgBank ∧ a = msgLoAddr then 0xD#4 else if b = msgBank ∧ a = msgHiAddr then 0xC#4 else s.cell b a := by
  have h := cell_outLoad { s with outb := (reply st data s).outb } b a
  simp only [reply_outb, Nat.zero_div, read_writeBytes_frame] at h
  refine Eq.trans ?_ (h.trans rfl)
  rw [← reply_outb]
  rfl

/-- All of `reply`: the bank's channel cells and the outbound state (R311). -/
theorem reply_eq (st : Status) (data : List Byte) (s : State) :
    reply st data s = { s with bank := (reply st data s).bank, outb := (reply st data s).outb } := rfl

theorem outLoad_eq (s : State) : outLoad s = { s with bank := (outLoad s).bank } := rfl

theorem outFinish_eq (s : State) :
    outFinish s = { s with bank := (outFinish s).bank, outb := { s.outb with active := false, pos := 0, len := 0 } } :=
  rfl

/-! ## The reads' post actions -/

/-- All of `post_read_msghi` (R143). -/
theorem postReadMsghi_cases (s : State) :
    (s.outb.active = true ∧ s.outb.pos % 2 = 0 ∧
        postReadMsghi s = { s with outb := { s.outb with pos := s.outb.pos + 1 } }) ∨
      (¬ (s.outb.active = true ∧ s.outb.pos % 2 = 0) ∧ postReadMsghi s = s) := by
  unfold postReadMsghi
  split
  · next h => exact .inl ⟨h.1, h.2, rfl⟩
  · next h => exact .inr ⟨h, rfl⟩

/-- All of `post_read_msglo` (R144). -/
theorem postReadMsglo_cases (s : State) :
    (s.outb.active = true ∧ s.outb.pos % 2 = 1 ∧ s.outb.pos + 1 = 2 * s.outb.len ∧
        postReadMsglo s = outFinish { s with outb := { s.outb with pos := s.outb.pos + 1 } }) ∨
      (s.outb.active = true ∧ s.outb.pos % 2 = 1 ∧ s.outb.pos + 1 ≠ 2 * s.outb.len ∧
        postReadMsglo s = outLoad { s with outb := { s.outb with pos := s.outb.pos + 1 } }) ∨
      (¬ (s.outb.active = true ∧ s.outb.pos % 2 = 1) ∧ postReadMsglo s = s) := by
  unfold postReadMsglo
  split
  · next h =>
    by_cases hf : s.outb.pos + 1 = 2 * s.outb.len
    · exact .inl ⟨h.1, h.2, hf, by simp [hf]⟩
    · exact .inr (.inl ⟨h.1, h.2, hf, by simp [hf]⟩)
  · next h => exact .inr (.inr ⟨h, rfl⟩)

/-! ## The resets and the flags -/

@[simp] theorem protoReset_inb (s : State) :
    (protoReset s).inb = { s.inb with hi := 0, pos := 0, state := .idle } := rfl

@[simp] theorem protoReset_outb (s : State) :
    (protoReset s).outb = { s.outb with active := false, pos := 0, len := 0 } := rfl

@[simp] theorem alarmClear_timeDirty (s : State) : (alarmClear s).timeDirty = true := rfl

@[simp] theorem clearInbound_inb (s : State) : (clearInbound s).inb = { s.inb with pos := 0, state := .idle } := rfl

@[simp] theorem setMode_curBank (d : Nibble) (s : State) : (setMode d s).curBank = modeBank d := rfl

@[simp] theorem setMode_timerEnabled (d : Nibble) (s : State) : (setMode d s).timerEnabled = modeTimerEn d := rfl

theorem markDirty_timeDirty (b : BankNo) (s : State) :
    (markDirty b s).timeDirty = (decide (b = 0#2 ∨ b = 1#2) || s.timeDirty) := by
  unfold markDirty
  split <;> simp_all

theorem markDirty_ramDirty (b : BankNo) (s : State) :
    (markDirty b s).ramDirty = (!decide (b = 0#2 ∨ b = 1#2) || s.ramDirty) := by
  unfold markDirty
  split <;> simp_all

/-- All of a host write to a stored cell (R141). -/
theorem wrCell_eq (b : BankNo) (a d : Nibble) (s : State) :
    wrCell b a d s =
      { s with
        bank := (storeMasked b a d s).bank
        timeDirty := decide (b = 0#2 ∨ b = 1#2) || s.timeDirty
        ramDirty := !decide (b = 0#2 ∨ b = 1#2) || s.ramDirty } := by
  unfold wrCell markDirty
  split <;> simp_all [storeMasked, State.setCell]

theorem cell_wrCell (b : BankNo) (a d : Nibble) (s : State) (b' : BankNo) (a' : Nibble) :
    (wrCell b a d s).cell b' a' = if b' = b ∧ a' = a then d &&& wmask b a else s.cell b' a' := by
  simp [wrCell, cell_storeMasked]

/-! ## The assembler -/

/-- All that receiving a byte can do (R242 to R249). -/
theorem asmPush_cases (b : Byte) (s : State) :
    (s.inb.state = .queuedSlow ∧ asmPush b s = s) ∨
      (s.inb.state ≠ .queuedSlow ∧ s.inb.pos < 2 ∧ asmPush b s = magicPhase b s) ∨
      (s.inb.state ≠ .queuedSlow ∧ 2 ≤ s.inb.pos ∧
        ∃ u, u = (if s.inb.pos + 1 = hdrLen s.params then headerKnown (storeByte b s) else storeByte b s) ∧
          ((u.inb.state = .headerKnown ∧ u.inb.pos = u.inb.expected ∧ asmPush b s = complete u) ∨
            (¬ (u.inb.state = .headerKnown ∧ u.inb.pos = u.inb.expected) ∧ asmPush b s = u))) := by
  by_cases hq : s.inb.state = .queuedSlow
  · exact .inl ⟨hq, by simp [asmPush, hq]⟩
  by_cases hp : s.inb.pos < 2
  · exact .inr (.inl ⟨hq, hp, by simp [asmPush, hq, hp]⟩)
  refine .inr (.inr ⟨hq, by omega, _, rfl, ?_⟩)
  have he : asmPush b s =
      (let u := if s.inb.pos + 1 = hdrLen s.params then headerKnown (storeByte b s) else storeByte b s
       if u.inb.state = .headerKnown ∧ u.inb.pos = u.inb.expected then complete u else u) := by
    simp only [asmPush, hq, hp, if_false]
    rfl
  rw [he]
  by_cases hc : (if s.inb.pos + 1 = hdrLen s.params then headerKnown (storeByte b s) else storeByte b s).inb.state =
      .headerKnown ∧
      (if s.inb.pos + 1 = hdrLen s.params then headerKnown (storeByte b s) else storeByte b s).inb.pos =
        (if s.inb.pos + 1 = hdrLen s.params then headerKnown (storeByte b s) else storeByte b s).inb.expected
  · exact .inl ⟨hc.1, hc.2, if_pos hc⟩
  · exact .inr ⟨hc, if_neg hc⟩

/-- All that completing a frame can do (R249). -/
theorem complete_cases (s : State) :
    (fastPathTakes s = true ∧ complete s = clearInbound (execCmd s)) ∨
      (fastPathTakes s = false ∧ complete s = { s with inb := { s.inb with state := .queuedSlow } }) := by
  unfold complete
  split
  · next h => exact .inl ⟨h, rfl⟩
  · next h => exact .inr ⟨by simpa using h, rfl⟩

/-- All that `MAIN.slow_dispatch` can do (R251). -/
theorem slowDispatch_cases (s : State) :
    (s.inb.state ≠ .queuedSlow ∧ slowDispatch s = s) ∨
      (s.inb.state = .queuedSlow ∧
        ((s.params.payloadMax < s.inb.len ∧ slowDispatch s = clearInbound (reply .badlen [] s)) ∨
          (s.inb.len ≤ s.params.payloadMax ∧ crcOk s = false ∧ slowDispatch s = clearInbound (reply .crc [] s)) ∨
          (crcOk s = true ∧ optOk s = false ∧ slowDispatch s = clearInbound (reply .unkcmd [] s)) ∨
          (s.inb.len ≤ s.params.payloadMax ∧ crcOk s = true ∧ optOk s = true ∧
            slowDispatch s = clearInbound (execCmd s)))) := by
  unfold slowDispatch
  by_cases hq : s.inb.state = .queuedSlow
  · refine .inr ⟨hq, ?_⟩
    by_cases h1 : s.params.payloadMax < s.inb.len
    · exact .inl ⟨h1, by simp [hq, h1]⟩
    by_cases h2 : crcOk s = true
    · by_cases h3 : optOk s = true
      · exact .inr (.inr (.inr ⟨by omega, h2, h3, by simp [hq, h1, h2, h3]⟩))
      · exact .inr (.inr (.inl ⟨h2, by simpa using h3, by simp [hq, h1, h2, h3]⟩))
    · exact .inr (.inl ⟨by omega, by simpa using h2, by simp [hq, h1, h2]⟩)
  · exact .inl ⟨hq, by simp [hq]⟩

/-! ## The outcomes -/

@[simp] theorem andThen_next (s : State) (f : State → State) : andThen (.next s) f = .next (f s) := rfl

theorem andThen_eq_next {o : Host.Outcome State Fault Refusal} {f : State → State} {t : State}
    (h : andThen o f = .next t) : ∃ s, o = .next s ∧ t = f s := by
  cases o with
  | next s => exact ⟨s, rfl, by simpa [andThen] using h.symm⟩
  | fault r => cases r
  | refused r => cases h

theorem nextStep_nil {s : State} (h : s.events = []) : nextStep s = .next (onMcu mainLoop s) := by simp [nextStep, h]

theorem nextStep_cons {s : State} {e : Event} {rest : List Event} (h : s.events = e :: rest) :
    nextStep s = runEvent e { s with events := rest } := by simp [nextStep, h]

end Sys2Proof.Machine
end

