-- ==== Sys2Proof/Laws/Steps.lean ====
section
/-! SUPPORT. What the agents' steps can do, each said once: the bus cycle and the dispatcher in terms of `exec`, the main
loop's steps, the wakeup, the boot. -/

namespace Sys2Proof.Machine

/-- Every instruction answers a next state. -/
theorem exec_next (i : Instr) (s : State) : ∃ t, exec i s = .next t := by
  cases i <;> exact ⟨_, rfl⟩

/-- A command byte decodes to a command, and the dispatcher's match and `exec` agree on it (R249: "both call the same
`exec_cmd`"). -/
theorem exec_decodeCmd (s : State) : exec (decodeCmd (cmdByte s)) s = .next (execCmd s) := by
  unfold execCmd
  generalize h : decodeCmd (cmdByte s) = i
  have hc : ∃ b, decodeCmd b = i := ⟨_, h⟩
  clear h
  cases i <;> first
    | rfl
    | (exfalso
       obtain ⟨b, hb⟩ := hc
       simp only [decodeCmd] at hb
       split at hb <;> cases hb)

/-- All that a bus cycle can do. -/
theorem busCycle_cases (c : BusCycle) (s : State) :
    (s.handlersEnabled = true ∧ busCycle c s = exec (decodeBus (cycleWord c s)) (openCycle c s)) ∨
      (s.handlersEnabled = false ∧ busCycle c s = .next (unservedCycle c s)) := by
  unfold busCycle
  cases h : s.handlersEnabled <;> simp

/-- A read of the host is a bus cycle and then what the host does with the nibble it sampled. -/
theorem hostRead_eq_next {a : Nibble} {tm : BusTiming} {s t : State} {k : Nibble → State → State}
    (h : hostRead a tm s k = .next t) :
    ∃ u, busCycle { write := false, a := a, d := 0#4, timing := tm } s = .next u ∧ t = k (u.bus.sampled.getD 0#4) u :=
  andThen_eq_next h

/-- A write of the host is a bus cycle and then the host's next phase. -/
theorem hostWrite_eq_next {a d : Nibble} {tm : BusTiming} {s t : State} {k : State → State}
    (h : hostWrite a d tm s k = .next t) :
    ∃ u, busCycle { write := true, a := a, d := d, timing := tm } s = .next u ∧ t = k u :=
  andThen_eq_next h

/-- All that a step of a call can do: at most one bus cycle, and then the host's own context changes (R331, R402). -/
theorem callStep_eq_next {k : Nat} {c : HostCall} {tm : BusTiming} {s t : State} (h : callStep k c tm s = .next t) :
    t = { s with host := t.host } ∨ ∃ cyc u, busCycle cyc s = .next u ∧ t = { u with host := t.host } := by
  unfold callStep at h
  split at h
  · cases h
    exact .inl rfl
  · cases h
    exact .inl rfl
  · obtain ⟨u, hu, rfl⟩ := hostRead_eq_next h
    exact .inr ⟨_, u, hu, rfl⟩
  · obtain ⟨u, hu, rfl⟩ := hostWrite_eq_next h
    exact .inr ⟨_, u, hu, rfl⟩
  · obtain ⟨u, hu, rfl⟩ := hostWrite_eq_next h
    exact .inr ⟨_, u, hu, rfl⟩
  · obtain ⟨u, hu, rfl⟩ := hostWrite_eq_next h
    exact .inr ⟨_, u, hu, rfl⟩
  · split at h
    · cases h
      exact .inl rfl
    · obtain ⟨u, hu, rfl⟩ := hostRead_eq_next h
      exact .inr ⟨_, u, hu, rfl⟩
  · obtain ⟨u, hu, rfl⟩ := hostRead_eq_next h
    exact .inr ⟨_, u, hu, rfl⟩
  · obtain ⟨u, hu, rfl⟩ := hostRead_eq_next h
    exact .inr ⟨_, u, hu, rfl⟩
  · obtain ⟨u, hu, rfl⟩ := hostRead_eq_next h
    exact .inr ⟨_, u, hu, rfl⟩
  · obtain ⟨u, hu, rfl⟩ := hostRead_eq_next h
    exact .inr ⟨_, u, hu, rfl⟩
  · obtain ⟨u, hu, rfl⟩ := hostRead_eq_next h
    exact .inr ⟨_, u, hu, rfl⟩
  · obtain ⟨u, hu, rfl⟩ := hostWrite_eq_next h
    exact .inr ⟨_, u, hu, rfl⟩

/-- All that a step of the host can do. -/
theorem hostStep_eq_next {k : Nat} {tm : BusTiming} {s t : State} (h : hostStep k tm s = .next t) :
    t = { s with host := t.host } ∨ ∃ cyc u, busCycle cyc s = .next u ∧ t = { u with host := t.host } := by
  unfold hostStep at h
  split at h
  · exact callStep_eq_next h
  · cases h
    exact .inl rfl

/-- All that WAKEUP can do (R211). -/
theorem wakeup_cases (s : State) :
    (s.hw.time.sec = s.lastSec ∧ wakeup s = s) ∨
      (s.hw.time.sec ≠ s.lastSec ∧ s.timerEnabled = true ∧ s.timeDirty = false ∧
        wakeup s = digitsOfHw { s with lastSec := s.hw.time.sec }) ∨
      (s.hw.time.sec ≠ s.lastSec ∧ ¬ (s.timerEnabled = true ∧ s.timeDirty = false) ∧
        wakeup s = { s with lastSec := s.hw.time.sec }) := by
  unfold wakeup
  by_cases h : s.hw.time.sec = s.lastSec
  · exact .inl ⟨h, by simp [h]⟩
  · by_cases g : s.timerEnabled = true ∧ s.timeDirty = false
    · exact .inr (.inl ⟨h, g.1, g.2, by simp [h, g]⟩)
    · exact .inr (.inr ⟨h, g, by simp only [ne_eq, h, not_false_eq_true, if_true]; rw [if_neg g]⟩)

/-- All that the commit can do (R207). -/
theorem syncCommit_cases (s : State) :
    (∃ f, s.timeDirty = true ∧ emuFields s = some f ∧ syncCommit s = hwCommit f s) ∨
      (¬ (s.timeDirty = true ∧ (emuFields s).isSome = true) ∧ syncCommit s = s) := by
  unfold syncCommit
  cases hd : s.timeDirty
  · exact .inr ⟨by simp, by simp⟩
  · cases hf : emuFields s
    · exact .inr ⟨by simp, by simp⟩
    · exact .inl ⟨_, rfl, rfl, by simp⟩

/-- All that the synchronizer's step can do (R207). -/
theorem syncToHw_cases (s : State) :
    (syncEnabled s = true ∧ syncToHw s = clearDirty (nvStore (syncCommit s))) ∨
      (syncEnabled s = false ∧ syncToHw s = s) := by
  unfold syncToHw
  cases syncEnabled s <;> simp

/-- A date of the bank is a legal date (R203). -/
theorem emuFields_legal {s : State} {f : DateTime} (h : emuFields s = some f) : f.legal = true := by
  simp only [emuFields, Option.bind_eq_bind, Option.bind_eq_some_iff] at h
  obtain ⟨_, _, _, _, _, _, _, _, _, _, _, _, h⟩ := h
  split at h
  · rename_i hl
    cases h
    exact hl
  · cases h

/-- All that the inbound timeout can do (R252). -/
theorem inTimeout_cases (s : State) :
    (inTimeoutEnabled s = true ∧ (inTimeout s).inb = { s.inb with pos := 0, state := .idle, hi := 0 } ∧
        inTimeout s = { s with inb := (inTimeout s).inb, diag := (inTimeout s).diag }) ∨
      (inTimeoutEnabled s = false ∧ inTimeout s = s) := by
  unfold inTimeout
  cases inTimeoutEnabled s <;> simp

/-- All that the outbound timeout can do (R314). -/
theorem outTimeout_cases (s : State) :
    (s.outb.active = true ∧ s.outb.deadline < s.now ∧ outTimeout s = outFinish s) ∨
      (¬ (s.outb.active = true ∧ s.outb.deadline < s.now) ∧ outTimeout s = s) := by
  unfold outTimeout
  by_cases h : outTimeoutEnabled s = true
  · have g : s.outb.active = true ∧ s.outb.deadline < s.now := by simpa [outTimeoutEnabled, hasElapsed] using h
    exact .inl ⟨g.1, g.2, if_pos h⟩
  · exact .inr ⟨by simpa [outTimeoutEnabled, hasElapsed] using h, if_neg h⟩

/-- `crc_ok()` is what R248 says (`FrameIsGood`). -/
theorem crcOk_iff (s : State) : crcOk s = true ↔ FrameIsGood s := by
  have h : 3 + s.params.lenWidth - 2 + s.inb.len = 1 + s.params.lenWidth + s.inb.len := by omega
  simp only [crcOk, trailer, crcRange, FrameIsGood, hdrLen, h, crcLen, Bool.and_eq_true, decide_eq_true_eq, beq_iff_eq]

/-- `opt_ok()` is what R249 and R115 say (`OptionsAllowed`). -/
theorem optOk_iff (s : State) : optOk s = true ↔ OptionsAllowed s := by
  have h : ∀ b : Byte, (b &&& 0xC0#8 == 0#8) = true ↔ b.extractLsb' 6 2 = 0#2 := by decide
  unfold optOk OptionsAllowed
  cases s.params.optPolicy
  · simp
  · simpa [cmdByte] using h (cmdByte s)

/-- All that the main loop can do of its own accord (R84). -/
theorem mainLoop_cases (s : State) :
    (s.inb.state = .queuedSlow ∧ mainLoop s = slowDispatch s) ∨
      (s.inb.state ≠ .queuedSlow ∧ syncEnabled s = true ∧ mainLoop s = syncToHw s) ∨
      (s.inb.state ≠ .queuedSlow ∧ syncEnabled s = false ∧ inTimeoutEnabled s = true ∧ mainLoop s = inTimeout s) ∨
      (s.inb.state ≠ .queuedSlow ∧ syncEnabled s = false ∧ inTimeoutEnabled s = false ∧ outTimeoutEnabled s = true ∧
        mainLoop s = outTimeout s) ∨
      (s.inb.state ≠ .queuedSlow ∧ syncEnabled s = false ∧ inTimeoutEnabled s = false ∧ outTimeoutEnabled s = false ∧
        mainLoop s = s) := by
  unfold mainLoop
  by_cases hq : s.inb.state = .queuedSlow
  · exact .inl ⟨hq, by simp [hq]⟩
  cases hs : syncEnabled s
  · cases hi : inTimeoutEnabled s
    · cases ho : outTimeoutEnabled s
      · exact .inr (.inr (.inr (.inr ⟨hq, rfl, rfl, rfl, by simp [hq]⟩)))
      · exact .inr (.inr (.inr (.inl ⟨hq, rfl, rfl, rfl, by simp [hq]⟩)))
    · exact .inr (.inr (.inl ⟨hq, rfl, rfl, by simp [hq]⟩))
  · exact .inr (.inl ⟨hq, rfl, by simp [hq]⟩)

/-- BOOT runs when the MCU has stopped, and not else (R410, R411). -/
theorem boot_cases (v : BootValues) (s : State) :
    (s.handlersEnabled = false ∧ boot v s = bootSequence (loadBootValues v s)) ∨
      (s.handlersEnabled = true ∧ boot v s = s) := by
  unfold boot
  cases h : s.handlersEnabled <;> simp

/-- A step of an agent on the MCU is taken when the handlers are enabled, and not else. -/
theorem onMcu_cases (f : State → State) (s : State) :
    (s.handlersEnabled = true ∧ onMcu f s = f s) ∨ (s.handlersEnabled = false ∧ onMcu f s = s) := by
  unfold onMcu
  cases s.handlersEnabled <;> simp

end Sys2Proof.Machine
end

