-- ==== Sys2Proof/Tests/Slice0.lean ====
section
/-! SUPPORT. The model's own tests. Expected values come from spec/95_test_vectors.md (V<n>), from the examples of the
rules, or from the encodings of rules R142 to R178 and R272 to R290 written out bit by bit. The last part holds, for every
statement with hypotheses, a state that meets them. -/

namespace Sys2Proof.Tests

open Sys2Proof.Config Sys2Proof.Machine

-- one proof at a time: each evaluation in the kernel would otherwise hold a thread of its own
set_option Elab.async false

/-! ## Well-formedness: the check refuses what no encoding spells -/

theorem test_rdReg_refuses_the_channel :
    wellFormed (.rdReg 1 0 0) = false ∧ wellFormed (.rdReg 1 1 0) = false ∧ wellFormed (.rdReg 1 2 0) = true ∧
      wellFormed (.rdReg 0 0 0) = true := by decide

theorem test_wrRam_refuses_other_banks_and_controls :
    wellFormed (.wrRam 0 0 0) = false ∧ wellFormed (.wrRam 1 2 0) = false ∧ wellFormed (.wrRam 2 0xD 0) = false ∧
      wellFormed (.wrRam 2 0xC 0) = true := by decide

theorem test_unknown_refuses_the_commands :
    wellFormed (.cmdUnknown 0 0x0C) = false ∧ wellFormed (.cmdUnknown 0 0x00) = false ∧
      wellFormed (.cmdUnknown 0 0x0D) = true := by decide

/-! ## Decoding: the words of the rules' encodings, written out -/

theorem test_decode_reads :
    decode (.bus 0b00000100000#11) = .rdReg 0 0x2 0 ∧ decode (.bus 0b01011111010#11) = .rdReg 1 0xF 0xA ∧
      decode (.bus 0b01000100000#11) = .rdReg 1 0x2 0 ∧ decode (.bus 0b11000000000#11) = .rdReg 3 0x0 0 ∧
      decode (.bus 0b01000001001#11) = .rdMsghi 0x9 ∧ decode (.bus 0b01000010110#11) = .rdMsglo 0x6 := by decide

theorem test_decode_time_writes :
    decode (.bus 0b00100000101#11) = .wrS1 0x5 ∧ decode (.bus 0b00100011101#11) = .wrS10 0xD ∧
      decode (.bus 0b00100101001#11) = .wrMi1 0x9 ∧ decode (.bus 0b00100110100#11) = .wrMi10 0x4 ∧
      decode (.bus 0b00101000011#11) = .wrH1 0x3 ∧ decode (.bus 0b00101010110#11) = .wrH10 0x6 ∧
      decode (.bus 0b00101100010#11) = .wrDow 0x2 ∧ decode (.bus 0b00101110001#11) = .wrD1 0x1 ∧
      decode (.bus 0b00110000011#11) = .wrD10 0x3 ∧ decode (.bus 0b00110010010#11) = .wrMo1 0x2 ∧
      decode (.bus 0b00110101111#11) = .wrMo10 0xF ∧ decode (.bus 0b00110110110#11) = .wrY1 0x6 ∧
      decode (.bus 0b00111000010#11) = .wrY10 0x2 := by decide

theorem test_decode_bank1_writes :
    decode (.bus 0b01100001100#11) = .wrMsghi 0xC ∧ decode (.bus 0b01100011101#11) = .wrMsglo 0xD ∧
      decode (.bus 0b01100101011#11) = .wrAmi1 0xB ∧ decode (.bus 0b01100111111#11) = .wrAmi10 0xF ∧
      decode (.bus 0b01101000111#11) = .wrAh1 0x7 ∧ decode (.bus 0b01101010001#11) = .wrAh10 0x1 ∧
      decode (.bus 0b01101101001#11) = .wrAdow 0x9 ∧ decode (.bus 0b01101110101#11) = .wrAd1 0x5 ∧
      decode (.bus 0b01110000010#11) = .wrAd10 0x2 ∧ decode (.bus 0b01110011111#11) = .wrU9 0xF ∧
      decode (.bus 0b01110100001#11) = .wrH24 0x1 ∧ decode (.bus 0b01110110110#11) = .wrLeap 0x6 ∧
      decode (.bus 0b01111000011#11) = .wrUc 0x3 := by decide

theorem test_decode_ram_and_control_writes :
    decode (.bus 0b11111001010#11) = .wrRam 3 0xC 0xA ∧ decode (.bus 0b10101111111#11) = .wrRam 2 0x7 0xF ∧
      decode (.bus 0b10110110001#11) = .wrRam 2 0xB 0x1 ∧ decode (.bus 0b00111011001#11) = .wrMode 0 0x9 ∧
      decode (.bus 0b01111101111#11) = .wrTest 1 0xF ∧ decode (.bus 0b10111110010#11) = .wrReset 2 0x2 := by decide

theorem test_decode_commands :
    decode (.cmd 0b00000000#8) = .cmdNull 0 ∧ decode (.cmd 0b01000001#8) = .cmdNop 1 ∧
      decode (.cmd 0b00000010#8) = .cmdId 0 ∧ decode (.cmd 0b10000011#8) = .cmdUptime 2 ∧
      decode (.cmd 0b00000100#8) = .cmdTestpatt 0 ∧ decode (.cmd 0b00000101#8) = .cmdLoopback 0 ∧
      decode (.cmd 0b11000110#8) = .cmdConsOutput 3 ∧ decode (.cmd 0b00000111#8) = .cmdConsInput 0 ∧
      decode (.cmd 0b00001000#8) = .cmdSet 0 ∧ decode (.cmd 0b00001001#8) = .cmdGet 0 ∧
      decode (.cmd 0b00001010#8) = .cmdSetMap 0 ∧ decode (.cmd 0b00001011#8) = .cmdGetMap 0 ∧
      decode (.cmd 0b00001100#8) = .cmdPollInput 0 ∧ decode (.cmd 0b00001101#8) = .cmdUnknown 0 0x0D ∧
      decode (.cmd 0b00011110#8) = .cmdUnknown 0 0x1E ∧ decode (.cmd 0b01111111#8) = .cmdUnknown 1 0x3F := by decide

/-- The host's numbering of a row: the first word's least significant bit is bit 0; nothing above the format's bits. -/
theorem test_decodeTableWord :
    decodeTableWord 16 0x105 = some (.wrS1 0x5) ∧ decodeTableWord 8 0x0D = some (.cmdUnknown 0 0x0D) ∧
      decodeTableWord 16 0x800 = none ∧ decodeTableWord 8 0x100 = none := by decide

/-! ## Small states and single steps -/

/-- S0 of spec/95_test_vectors.md: after BOOT with the hardware clock at 12:34:56, weekday 2, 10.11.26 and no backup. -/
def startState : State :=
  { State.reset with
    bank :=
      #v[6, 5, 4, 3, 2, 1, 2, 0, 1, 1, 1, 6, 2, 8, 0, 0,
         0, 0, 0, 0, 0, 0, 0, 0, 0, 0, 1, 2, 0, 8, 0, 0,
         0, 0, 0, 0, 0, 0, 0, 0, 0, 0, 0, 0, 0, 8, 0, 0,
         0, 0, 0, 0, 0, 0, 0, 0, 0, 0, 0, 0, 0, 8, 0, 0]
    lastSec := 56
    hw := { time := { sec := 56, min := 34, hour := 12, wday := 2, day := 10, month := 11, year := 26 }, wp := true } }

/-- The state after one step. -/
def stepped (s : State) : State :=
  match step s with
  | .next t => t
  | .fault r => nomatch r
  | .refused _ => s

/-- The state after one step of one agent. -/
def after (e : Event) (s : State) : State := stepped { s with events := [e] }

/-- One bus cycle with no timing of note. -/
def cycle (write : Bool) (a d : Nibble) : Event :=
  .bus { write := write, a := a, d := d, timing := { hold := 0, undriven := 0 } }

/-- S0 in another bank, the timer running. -/
def inBank (b : BankNo) : State := setMode (0x8#4 ||| b.setWidth 4) startState

/-- The 16 cells of a bank. -/
def row (b : BankNo) (s : State) : List Nibble := (List.range 16).map (fun a => s.cell b (BitVec.ofNat 4 a))

/-- S0 with a request frame queued for the main loop; `n` is its length field. -/
def queued (frame : List Byte) (n : Nat) (s : State) : State :=
  { s with
    inb :=
      { s.inb with
        buf := Memory.ofBytes frame, pos := 9 + n, state := .queuedSlow, len := n, expected := 9 + n } }

/-- The bytes of the reply in `out_buf`. -/
def outFrame (s : State) : List Byte := Memory.readBytes s.outb.buf 0 s.outb.len

/-- The main loop's answer to a request frame. -/
def answer (frame : List Byte) (n : Nat) (s : State) : State := after .slowDispatch (queued frame n s)

/-- V1, V2. -/
theorem test_read_registers :
    (List.range 16).map (fun a => (after (cycle false (BitVec.ofNat 4 a) 0) startState).bus.sampled) =
      [6, 5, 4, 3, 2, 1, 2, 0, 1, 1, 1, 6, 2, 8, 0, 0].map some := by decide +kernel

/-- V3 to V8: the value written, and the cell after it. -/
theorem test_time_writes :
    ([(0x0, 0xA, 0xA), (0x1, 0xD, 5), (0x2, 9, 9), (0x3, 0xF, 7), (0x4, 9, 9), (0x5, 6, 2), (0x6, 0xF, 7), (0x7, 9, 9),
      (0x8, 0xF, 3), (0x9, 9, 9), (0xA, 0xF, 1), (0xB, 0xF, 0xF), (0xC, 9, 9)] : List (Nibble × Nibble × Nibble)).all
      (fun x =>
        let t := after (cycle true x.1 x.2.1) startState
        t.cell 0 x.1 == x.2.2 && t.timeDirty && !t.ramDirty) = true := by decide +kernel

/-- V12, V13, V14. -/
theorem test_bank1_writes :
    ([(0x2, 0xB, 0xB), (0x3, 0xF, 7), (0x4, 0xE, 0xE), (0x5, 0xF, 3), (0x6, 0xF, 7), (0x7, 0xC, 0xC), (0x8, 0xF, 3),
      (0x9, 0xF, 0), (0xA, 0xF, 1), (0xB, 0xF, 3), (0xC, 0xF, 0)] : List (Nibble × Nibble × Nibble)).all
      (fun x =>
        let t := after (cycle true x.1 x.2.1) (inBank 1)
        t.cell 1 x.1 == x.2.2 && t.timeDirty && !t.ramDirty) = true := by decide +kernel

/-- V15, and the example of R171: bank 3 is its own. -/
theorem test_ram_writes :
    let t := after (cycle true 0xC 0xF) (inBank 2)
    let u := after (cycle true 0xC 0xA) (inBank 3)
    t.cell 2 0xC = 0xF ∧ t.cell 3 0xC = 0 ∧ t.ramDirty = true ∧ t.timeDirty = false ∧ u.cell 3 0xC = 0xA ∧
      u.cell 2 0xC = 0 := by decide +kernel

/-- V11. -/
theorem test_mode_write :
    let t := after (cycle true 0xD 0xD) startState
    [t.cell 0 0xD, t.cell 1 0xD, t.cell 2 0xD, t.cell 3 0xD] = [0xD, 0xD, 0xD, 0xD] ∧ t.curBank = 1 ∧
      t.timerEnabled = true ∧ t.timeDirty = false ∧ (after (cycle true 0xD 0x6) startState).timerEnabled = false := by
  decide +kernel

/-- V9. -/
theorem test_test_write : (after (cycle true 0xE 0xF) startState).bank = startState.bank := by decide +kernel

/-- V16, and V10: bits 3:2 are ignored. -/
theorem test_reset_write :
    let s := { inBank 2 with bank := (inBank 2).bank.set 18 0xB, inb := { (inBank 2).inb with hi := 5, pos := 3, state := .accumulating } }
    let t := after (cycle true 0xF 0xF) s
    t.cell 1 0x2 = 0 ∧ t.cell 1 0xA = 1 ∧ t.timeDirty = true ∧ t.inb.pos = 0 ∧ t.inb.hi = 0 ∧ t.inb.state = .idle ∧
      (after (cycle true 0xF 0xC) s).cell 1 0x2 = 0xB ∧ (after (cycle true 0xF 0xC) s).inb.pos = 3 := by decide +kernel

/-- V19; V17: a lone low nibble makes the byte 0x0D, which is dropped. -/
theorem test_channel_writes :
    let t := after (cycle true 0x0 0xF) (inBank 1)
    let u := after (cycle true 0x1 0xD) (inBank 1)
    t.inb.hi = 0xF ∧ t.cell 1 0 = 0 ∧ t.timeDirty = false ∧ u.inb.pos = 0 ∧ u.inb.state = .idle := by decide +kernel

/-- The example of R173: the byte 0xCD opens the magic; V22: a second 0xCD opens it again. -/
theorem test_magic :
    let s := { inBank 1 with inb := { (inBank 1).inb with hi := 0xC } }
    let t := after (cycle true 0x1 0xD) s
    let u := after (cycle true 0x1 0xD) { t with inb := { t.inb with hi := 0xC } }
    t.inb.pos = 1 ∧ t.inb.state = .accumulating ∧ t.inb.hi = 0 ∧ t.inb.deadline = 1000 ∧ u.inb.pos = 1 := by decide +kernel

/-- V41: the header of `CD 68 05 00 03` becomes known at its fifth byte. -/
theorem test_header_known :
    let s := { inBank 1 with inb := { (inBank 1).inb with buf := Memory.ofBytes [0xCD, 0x68, 5, 0], pos := 4, state := .accumulating } }
    let t := after (cycle true 0x1 0x3) s
    t.inb.state = .headerKnown ∧ t.inb.len = 3 ∧ t.inb.expected = 12 := by decide +kernel

/-- The last nibble of a frame of nine bytes. -/
def lastNibble (frame : List Byte) (hi lo : Nibble) : State :=
  after (cycle true 0x1 lo)
    { inBank 1 with
      inb :=
        { (inBank 1).inb with
          hi := hi, buf := Memory.ofBytes frame, pos := 8, state := .headerKnown, len := 0, expected := 9 } }

/-- V20: the NOP runs in the handler; V39g: so does NULL, which replies nothing. -/
theorem test_fast_path :
    let t := lastNibble [0xCD, 0x68, 1, 0, 0, 0xFE, 0x83, 0xB3] 2 5
    let u := lastNibble [0xCD, 0x68, 0, 0, 0, 0xFF, 0x41, 0xD9] 1 2
    outFrame t = [0xCD, 0x68, 0, 0, 0, 0xFF, 0x41, 0xD9, 0x12] ∧ t.inb.state = .idle ∧ t.cell 1 0 = 0xC ∧
      t.cell 1 1 = 0xD ∧ u.inb.state = .idle ∧ u.outb.active = false := by decide +kernel

/-- V25: a flipped bit sends the frame to the main loop; V43: UPTIME is not a fast command. -/
theorem test_slow_path_queues :
    (lastNibble [0xCD, 0x68, 3, 0, 0, 0xFE, 0x83, 0xB3] 2 5).inb.state = .queuedSlow ∧
      (lastNibble [0xCD, 0x68, 3, 0, 0, 0xFD, 0x07, 0x67] 4 0xB).inb.state = .queuedSlow := by decide +kernel

/-- The OK reply with no payload. -/
def okReply : List Byte := [0xCD, 0x68, 0, 0, 0, 0xFF, 0x41, 0xD9, 0x12]

/-- R272, R273: examples. -/
theorem test_null_nop :
    (answer [0xCD, 0x68, 0, 0, 0, 0xFF, 0x41, 0xD9, 0x12] 0 startState).outb.active = false ∧
      outFrame (answer [0xCD, 0x68, 1, 0, 0, 0xFE, 0x83, 0xB3, 0x25] 0 startState) = okReply := by decide +kernel

/-- V31: header, the name, the protocol revision, and the CRC of the 97-byte reply. -/
theorem test_id :
    let p : Params :=
      { defaultParams with
        idVersion0 := 1, idDate := #v[0x14, 0x1A, 0x0B, 0x0A], idTime := #v[0x0C, 0, 0, 0]
        idSerial := [0x53, 0x4E, 0x30, 0x30, 0x30, 0x31], boardName := [0x41, 0x6D, 0x69, 0x67, 0x61, 0x50, 0x43, 0x49] }
    let f := outFrame (answer [0xCD, 0x68, 2, 0, 0, 0xFC, 0xC5, 0x0D, 0x7C] 0 { startState with params := p })
    f.take 9 = [0xCD, 0x68, 0, 0, 0x58, 0, 1, 0, 0] ∧ (f.drop 41).take 12 = [0, 0, 0, 1, 0x41, 0x6D, 0x69, 0x67, 0x61, 0x50, 0x43, 0x49] ∧
      f.drop 93 = [0x75, 0xDE, 0x9F, 0xA0] := by decide +kernel

/-- V32. -/
theorem test_uptime :
    outFrame (answer [0xCD, 0x68, 3, 0, 0, 0xFD, 0x07, 0x67, 0x4B] 0 { startState with uptimeUs := 1000000 }) =
      [0xCD, 0x68, 0, 0, 8, 0, 0, 0, 0, 0, 0x0F, 0x42, 0x40, 0x6F, 0x90, 0x38, 0xDE] := by decide +kernel

/-- V33. -/
theorem test_testpatt :
    (outFrame (answer [0xCD, 0x68, 4, 0, 0, 0xF8, 0x48, 0x71, 0xCE] 0 startState)).drop 4 =
      [0x18, 0xAA, 0x55, 0xCC, 0x33, 0xEE, 0x11, 0xFF, 0, 1, 2, 4, 8, 0x10, 0x20, 0x40, 0x80, 0xFE, 0xFD, 0xFB, 0xF7,
        0xEF, 0xDF, 0xBF, 0x7F, 0x70, 0x07, 0xE1, 0x77] := by decide +kernel

/-- V34. -/
theorem test_loopback :
    outFrame (answer [0xCD, 0x68, 5, 0, 3, 0xDE, 0xAD, 0x42, 0xF7, 0xD6, 0x65, 0xDC] 3 startState) =
      [0xCD, 0x68, 0, 0, 3, 0xDE, 0xAD, 0x42, 0xA7, 0x1B, 0xF4, 0x6F] := by decide +kernel

/-- V36. -/
theorem test_cons_output :
    let t := answer [0xCD, 0x68, 6, 0, 0, 0xFB, 0xCC, 0xA5, 0xA0] 0 { startState with consOut := [0x68, 0x69] }
    outFrame t = [0xCD, 0x68, 0, 0, 2, 0x68, 0x69, 0x5C, 0xEC, 0x1B, 0x20] ∧ t.consOut = [] := by decide +kernel

/-- V37, V37b. -/
theorem test_cons_input :
    let t := answer [0xCD, 0x68, 7, 0, 1, 0x0D, 0xDB, 0x39, 0xAA, 0x59] 1 startState
    let u :=
      answer [0xCD, 0x68, 7, 0, 3, 0x6C, 0x73, 0x0D, 0x85, 0x1C, 0x5A, 0x39] 3
        { startState with consIn := List.replicate 255 0x20 }
    outFrame t = okReply ∧ t.consIn = [0x0D] ∧ outFrame u = [0xCD, 0x68, 1, 0, 0, 0xFE, 0x83, 0xB3, 0x25] ∧
      u.consIn.length = 255 := by decide +kernel

/-- V38, V38c. -/
theorem test_set :
    let t := answer [0xCD, 0x68, 8, 0, 4, 0, 0x10, 0xAA, 0xBB, 0x4F, 0x7E, 0xAA, 0xCE] 4 startState
    let u := answer [0xCD, 0x68, 8, 0, 4, 0, 0xFF, 0xAA, 0xBB, 0xED, 0xC0, 0x3D, 0x53] 4 startState
    outFrame t = okReply ∧ t.cfg = [(0x10, 0xAA), (0x11, 0xBB)] ∧
      outFrame u = [0xCD, 0x68, 3, 0, 0, 0xFD, 0x07, 0x67, 0x4B] ∧ u.cfg = [] := by decide +kernel

/-- V38b, V38e. -/
theorem test_get :
    let s := { startState with cfg := [(0x10, 0xAA), (0x11, 0xBB)] }
    outFrame (answer [0xCD, 0x68, 9, 0, 4, 0, 0x10, 0, 2, 0x0F, 0x5C, 0xFE, 0x31] 4 s) =
        [0xCD, 0x68, 0, 0, 2, 0xAA, 0xBB, 0xCD, 0xFD, 0x1D, 0x14] ∧
      outFrame (answer [0xCD, 0x68, 9, 0, 3, 0, 0, 1, 0xF3, 0x7F, 0x6F, 0x13] 3 s) =
        [0xCD, 0x68, 4, 0, 0, 0xF8, 0x48, 0x71, 0xCE] := by decide +kernel

/-- R287, R288: examples, with `MAP_SIZE = 3`. -/
theorem test_set_map_get_map :
    let s := { startState with params := { defaultParams with mapSize := 3 } }
    let t := answer [0xCD, 0x68, 0x0A, 0, 5, 0, 0, 1, 2, 3, 0x0E, 0xD2, 0x0B, 0x1D] 5 s
    t.map = [(0, 1), (1, 2), (2, 3)] ∧ t.cfg = [] ∧
      outFrame (answer [0xCD, 0x68, 0x0B, 0, 4, 0, 1, 0, 0x10, 0x76, 0x9E, 0x57, 0x17] 4 t) =
        [0xCD, 0x68, 0, 0, 2, 2, 3, 0x6E, 0x99, 0x10, 0x4B] := by decide +kernel

/-- V39f, V30. -/
theorem test_poll_input_unknown :
    outFrame (answer [0xCD, 0x68, 0x0C, 0, 0, 0xF6, 0x5B, 0x20, 0x76] 0 startState) =
        [0xCD, 0x68, 5, 0, 0, 0xF9, 0x8A, 0x1B, 0xF9] ∧
      outFrame (answer [0xCD, 0x68, 0x3F, 0, 0, 0xD0, 0x76, 0x7B, 0xBF] 0 startState) =
        [0xCD, 0x68, 2, 0, 0, 0xFC, 0xC5, 0x0D, 0x7C] := by decide +kernel

/-- V25, V28, V29 under `reject`: CRC, BADLEN, UNKCMD. -/
theorem test_dispatcher_statuses :
    outFrame (answer [0xCD, 0x68, 3, 0, 0, 0xFE, 0x83, 0xB3, 0x25] 0 startState) =
        [0xCD, 0x68, 0x0B, 0, 0, 0xF3, 0x14, 0x36, 0xF3] ∧
      outFrame (answer [0xCD, 0x68, 5, 1, 1] 257 startState) = [0xCD, 0x68, 4, 0, 0, 0xF8, 0x48, 0x71, 0xCE] ∧
      outFrame
          (answer [0xCD, 0x68, 0x41, 0, 0, 0x8E, 0x19, 0x3E, 0xE5] 0
            { startState with params := { defaultParams with optPolicy := .reject } }) =
        [0xCD, 0x68, 2, 0, 0, 0xFC, 0xC5, 0x0D, 0x7C] := by decide +kernel

/-- The check value of R108, and the CRC of the empty replies of V31's table. -/
theorem test_crc :
    crc32 defaultParams [0x31, 0x32, 0x33, 0x34, 0x35, 0x36, 0x37, 0x38, 0x39] = 0xCBF43926 ∧
      crc32 defaultParams [0, 0, 0] = 0xFF41D912 ∧ crc32 defaultParams [0x0B, 0, 0] = 0xF31436F3 := by decide +kernel

/-- A state in bank 1 with the empty OK reply just composed. -/
def replying : State := reply .ok [] (inBank 1)

/-- V45: low before high does not advance; high does, once. -/
theorem test_read_msghi_parity :
    let t := after (cycle false 0x0 0) replying
    let u := after (cycle false 0x0 0) t
    (after (cycle false 0x1 0) replying).outb.pos = 0 ∧ t.bus.sampled = some 0xC ∧ t.outb.pos = 1 ∧
      u.bus.sampled = some 0xC ∧ u.outb.pos = 1 := by decide +kernel

/-- V45, V20: the low nibble loads the next byte; the last one ends the reply. -/
theorem test_read_msglo :
    let t := after (cycle false 0x1 0) (after (cycle false 0x0 0) replying)
    let l := outLoad { replying with outb := { replying.outb with pos := 17 } }
    let u := after (cycle false 0x1 0) l
    t.bus.sampled = some 0xD ∧ t.outb.pos = 2 ∧ t.cell 1 0 = 6 ∧ t.cell 1 1 = 8 ∧ u.bus.sampled = some 2 ∧
      u.outb.active = false ∧ u.cell 1 0 = 0 ∧ u.cell 1 1 = 0 := by decide +kernel

/-- V40, V44: both timeouts, at the deadline and after it. -/
theorem test_timeouts :
    let s := { inBank 1 with inb := { (inBank 1).inb with pos := 3, state := .accumulating, deadline := 1000 }, now := 1000 }
    let t := after .inTimeout { s with now := 1001 }
    (after .inTimeout s).inb.pos = 3 ∧ t.inb.pos = 0 ∧ t.diag = [{ received := 3, expected := none }] ∧
      (after .outTimeout { replying with now := 1000 }).outb.active = true ∧
      (after .outTimeout { replying with now := 1001 }).cell 1 0 = 0 := by decide +kernel

/-- V50: the commit, and the words of the backup. -/
theorem test_sync_commits :
    let s := { startState with
      bank := #v[0, 3, 9, 5, 3, 2, 2, 1, 3, 2, 1, 5, 2, 8, 0, 0, 0, 0, 0, 0, 0, 0, 0, 0, 0, 0, 1, 2, 0, 8, 0, 0,
                 0, 0, 0, 0, 0, 0, 0, 0, 0, 0, 0, 0, 0, 8, 0, 0, 0, 0, 0, 0, 0, 0, 0, 0, 0, 0, 0, 0, 0, 8, 0, 0]
      timeDirty := true }
    let t := after .syncToHw s
    t.hw.time = { sec := 30, min := 59, hour := 23, wday := 2, day := 31, month := 12, year := 25 } ∧ t.lastSec = 30 ∧
      t.nv = #v[0x52503543, 0, 0x00002100, 0, 0, 0, 0] ∧ t.timeDirty = false := by decide +kernel

/-- V51: 29.02.24 is a date; 30.02.24, 29.02.25 and a digit above 9 are none. -/
theorem test_validity :
    let s := fun d1 d10 y1 => { startState with
      bank := #v[0, 0, 0, 0, 0, 0, 2, d1, d10, 2, 0, y1, 2, 8, 0, 0, 0, 0, 0, 0, 0, 0, 0, 0, 0, 0, 1, 2, 0, 8, 0, 0,
                 0, 0, 0, 0, 0, 0, 0, 0, 0, 0, 0, 0, 0, 8, 0, 0, 0, 0, 0, 0, 0, 0, 0, 0, 0, 0, 0, 0, 0, 8, 0, 0] }
    (emuFields (s 9 2 4)).isSome = true ∧ emuFields (s 0 3 4) = none ∧ emuFields (s 9 2 5) = none ∧
      emuFields (s 0xA 1 4) = none := by decide +kernel

/-- V52: the turn of the year, of a leap February and of the century. -/
theorem test_hw_tick :
    let at0 := fun w d m y => { startState with hw := { time := { sec := 59, min := 59, hour := 23, wday := w, day := d, month := m, year := y }, wp := true } }
    (after .hwTick (at0 2 31 12 25)).hw.time = { sec := 0, min := 0, hour := 0, wday := 3, day := 1, month := 1, year := 26 } ∧
      (after .hwTick (at0 6 28 2 24)).hw.time = { sec := 0, min := 0, hour := 0, wday := 0, day := 29, month := 2, year := 24 } ∧
      (after .hwTick (at0 4 31 12 99)).hw.time.year = 0 := by decide +kernel

/-- V52's first row, V53: the digits follow a new second and no other. -/
theorem test_wakeup :
    let s := { startState with hw := { time := { sec := 0, min := 0, hour := 0, wday := 3, day := 1, month := 1, year := 26 }, wp := true } }
    let t := after .wakeup s
    (row 0 t).take 13 = [0, 0, 0, 0, 0, 0, 3, 1, 0, 1, 0, 6, 2] ∧ t.cell 1 0xB = 2 ∧ t.lastSec = 0 ∧
      (after .wakeup { s with lastSec := 0 }).bank = s.bank ∧ (after .wakeup { s with timeDirty := true }).bank = s.bank := by
  decide +kernel

/-- What the environment leaves in the unspecified state at a boot. -/
def bootValues : BootValues :=
  { now := 7, inBuf := [1], inLen := 2, inExpected := 3, inDeadline := 4, outBuf := [5], outDeadline := 6, cfg := [], map := [] }

/-- V59: the restore; V60: the cookie does not match. -/
theorem test_boot :
    let s := { startState with
      handlersEnabled := false
      nv := #v[0x52503543, 0x75A3F9FF, 0xFFFFFFFF, 0x76543210, 0x000CBA98, 0, 0x000A0000] }
    let t := after (.boot bootValues) s
    let u := after (.boot bootValues) { s with nv := s.nv.set 0 0x12345678 }
    row 1 t = [0, 0, 9, 7, 3, 2, 5, 7, 3, 0, 1, 2, 0, 8, 0, 0] ∧ row 2 t = [0, 1, 2, 3, 4, 5, 6, 7, 8, 9, 0xA, 0xB, 0xC, 8, 0, 0] ∧
      row 3 t = [0, 0, 0, 0, 0, 0, 0, 0, 0, 0, 0, 0, 0xA, 8, 0, 0] ∧
      row 1 u = [0, 0, 0, 0, 0, 0, 0, 0, 0, 0, 1, 2, 0, 8, 0, 0] ∧ u.nv.get 0 = 0x12345678 := by decide +kernel

/-- The reset state is what BOOT makes of it (R56, R411). -/
theorem test_reset_is_after_boot :
    after (.boot { bootValues with now := 0, inBuf := [], inLen := 0, inExpected := 0, inDeadline := 0, outBuf := [], outDeadline := 0 })
      { State.reset with handlersEnabled := false } = State.reset := by decide +kernel

/-- `withFetchWord`: the very next step runs the row's instruction (WR_RAM and ID). -/
theorem test_withFetchWord :
    let t := stepped (State.reset.withFetchWord 16 0x5CF)
    t.cell 2 0xC = 0xF ∧ t.ramDirty = true ∧ outFrame (stepped (State.reset.withFetchWord 8 0x01)) = okReply := by
  decide +kernel

/-- `LEN_BYTES = 1` changes the length field alone (D1), and with an unknown `crc32` a frame still has its length. -/
theorem test_other_parameters :
    frameBytes { defaultParams with lenBytes := .one } 5 2 [1, 2] =
        [0xCD, 0x68, 5, 2, 1, 2] ++ beBytes 4 (crc32 defaultParams [5, 2, 1, 2]).toNat ∧
      ((frameBytes { defaultParams with crc := .other 0 } 5 0 []).take 5) = [0xCD, 0x68, 5, 0, 0] := by decide +kernel

/-- A timing with no held cycle. -/
def prompt : BusTiming := { hold := 0, undriven := 0 }

/-- A call in a given phase. -/
def inCall (phase : HostPhase) : HostCall := { newCall 0x06 [] 8 true with phase := phase }

/-- A state in which the host has made one call. -/
def calling (c : HostCall) (s : State) : State := { s with host := { s.host with calls := [c] } }

/-- The only call, after the host's next step. -/
def callAfter (c : HostCall) (s : State) : Option HostCall := (after (.hostStep 0 prompt) (calling c s)).host.calls[0]?

/-- V72, V73 at the host's verdict: a reply longer than the buffer, a wrong trailer. -/
theorem test_host_verdicts :
    (concludeReply defaultParams [0, 0, 2, 0x68, 0x69, 0x5C, 0xEC, 0x1B, 0x20] { inCall .getLo with replyMax := 1 }).result =
        some { status := 0x09, replyLen := 1 } ∧
      (concludeReply defaultParams [1, 0, 0, 0xFF, 0x41, 0xD9, 0x12] (inCall .getLo)).result =
        some { status := 0x0A, replyLen := 0 } := by decide +kernel

/-- V71: the second magic nibble reads 0. -/
theorem test_host_badmagic :
    (callAfter (inCall .magic2) (inBank 1)).bind (·.result) = some { status := 0x08, replyLen := 0 } := by decide +kernel

/-- R333 to R337: the first byte sent is 0xCD, the last byte of the request starts the polls, the last of the reply ends it
(V36's reply `hi`). -/
theorem test_host_bytes :
    let s := inBank 1
    let t := after (.hostStep 0 prompt) (calling (inCall .selectBank) s)
    let last := { inCall .getLo with rxHi := 2, received := [0, 0, 2, 0x68, 0x69, 0x5C, 0xEC, 0x1B] }
    (t.host.calls[0]?.map (·.toSend)) = some [0xCD, 0x68, 6, 0, 0, 0xFB, 0xCC, 0xA5, 0xA0] ∧
      (after (.hostStep 0 prompt) t).inb.hi = 0xC ∧
      (callAfter { inCall .putLo with toSend := [0xA0] } s).map (fun c => (c.phase, c.pollsLeft)) = some (.poll, 125) ∧
      (callAfter { inCall .putLo with toSend := [0x12], cmd := 0 } s).bind (·.result) = some { status := 0, replyLen := 0 } ∧
      (callAfter last s).bind (·.result) = some { status := 0, replyLen := 2 } ∧
      (callAfter last s).map (·.reply) = some [0x68, 0x69] := by decide +kernel

/-- R343: the bytes of two calls made at once interleave, and the second CD opens the magic again (V22). -/
theorem test_host_second_call :
    let s := after (.hostCall 0x01 [] 8 false) (calling { inCall .putHi with toSend := [0xCD, 0x68] } (inBank 1))
    let t := (List.replicate 2 (Event.hostStep 0 prompt)).foldl (fun u e => after e u) s
    let u := (List.replicate 4 (Event.hostStep 1 prompt)).foldl (fun u e => after e u) t
    s.host.irqEnabled = false ∧ s.host.calls.length = 2 ∧ t.inb.pos = 1 ∧ u.inb.pos = 1 ∧
      u.host.calls.map (fun c => c.toSend.length) = [1, 8] := by decide +kernel

/-- R84: with no step listed, the main loop answers the queued frame and then rests. -/
theorem test_main_loop_goes_on :
    let t := stepped (queued [0xCD, 0x68, 1, 0, 0, 0xFE, 0x83, 0xB3, 0x25] 0 startState)
    outFrame t = okReply ∧ stepped t = t := by decide +kernel

/-- R47, R51: the time base, and both queues at the edge of what they hold. -/
theorem test_tick_and_console :
    let s := { startState with uptimeUs := 0xFFFFFFFFFFFFFFFF, consOut := List.replicate 255 1, consIn := [1, 2, 3] }
    (after (.tick 5 2) s).now = 5 ∧ (after (.tick 5 2) s).uptimeUs = 1 ∧ (after (.tick 0 2) s).uptimeUs = s.uptimeUs ∧
      (after (.consoleOut [7, 8]) s).consOut = List.replicate 255 1 ++ [7] ∧ (after (.consoleIn 2) s).consIn = [3] := by
  decide +kernel

/-! ## For every statement with hypotheses, something that meets them, clause by clause -/

theorem test_witness_EncodeThenDecodeEveryInstruction :
    wellFormed (.rdReg 2 5 0) = true ∧ wellFormed (.wrRam 3 0xC 1) = true ∧ wellFormed (.cmdUnknown 1 0x3F) = true := by
  decide

theorem test_witness_OpcodeMaps :
    (0xC#4).toNat ≤ 0xC ∧ 2 ≤ (2#2).toNat ∧ (0x0C#6).toNat ≤ 0x0C ∧ 0x0D ≤ (0x0D#6).toNat := by decide

theorem test_witness_BusStepRunsDecodedInstruction :
    ∃ s : State, s.events = [cycle true 0xD 0x9] ∧ s.handlersEnabled = true :=
  ⟨{ startState with events := [cycle true 0xD 0x9] }, rfl, rfl⟩

/-- A queued frame with the events of its dispatch; the four cases of the answer: too long by one byte, a bad trailer at
the longest payload, option bits, a good frame. -/
theorem test_witness_SlowDispatchAnswersInOrder :
    let long := { queued [0xCD, 0x68, 5, 1, 1] 257 startState with events := [.slowDispatch] }
    let bad := { queued [0xCD, 0x68, 5, 1, 0] 256 startState with events := [.slowDispatch] }
    let good := { queued [0xCD, 0x68, 0x41, 0, 0, 0x8E, 0x19, 0x3E, 0xE5] 0 startState with events := [.slowDispatch] }
    let opts := { good with params := { defaultParams with optPolicy := .reject } }
    (∀ s ∈ [long, bad, opts, good], s.events = [.slowDispatch] ∧ s.handlersEnabled = true ∧ s.inb.state = .queuedSlow) ∧
      long.params.payloadMax < long.inb.len ∧ bad.inb.len ≤ bad.params.payloadMax ∧ ¬ FrameIsGood bad ∧
      FrameIsGood opts ∧ ¬ OptionsAllowed opts ∧ FrameIsGood good ∧ OptionsAllowed good := by decide +kernel

/-- A stopped MCU, and a main loop with all but one of its steps enabled. -/
theorem test_witness_NoStepStops :
    (∃ s : State, s.handlersEnabled = false) ∧
      ¬ MainLoopAtRest { queued [] 0 startState with timeDirty := true, outb := replying.outb, now := 1001 } ∧
      MainLoopAtRest startState := by
  refine ⟨⟨{ startState with handlersEnabled := false }, rfl⟩, ?_, ?_⟩ <;> unfold MainLoopAtRest <;> decide +kernel

theorem test_witness_QuietBlockComesToRest :
    let s := { replying with
      events := [.slowDispatch, .tick 1001 1, .inTimeout, .outTimeout]
      inb := { replying.inb with pos := 3, state := .accumulating, deadline := 1000 } }
    s.handlersEnabled = true ∧ s.inb.deadline < s.now + 1001 ∧ s.outb.deadline < s.now + 1001 := by decide +kernel

theorem test_witness_HandlersNeverWriteClockOrStores :
    exec (.wrTest 0 1) startState = .next startState ∧
      (∃ t, step { startState with events := [cycle true 0xE 0] } = .next t) ∧
      (∃ t, step { startState with events := [.wakeup] } = .next t) ∧
      (∃ t, step { startState with events := [.hostStep 0 prompt] } = .next t) ∧
      ∃ t, step { startState with events := [.hostTick 1] } = .next t ∧ t.host ≠ startState.host :=
  ⟨rfl, ⟨_, rfl⟩, ⟨_, rfl⟩, ⟨_, rfl⟩, after (.hostTick 1) startState, rfl, by decide +kernel⟩

/-- By the listed step, and by the main loop of its own accord. -/
theorem test_witness_OnlySyncWritesTheBackup :
    (∃ t, step { startState with events := [.syncToHw], ramDirty := true } = .next t ∧ t.nv ≠ startState.nv) ∧
      ∃ t, step { startState with ramDirty := true } = .next t ∧ t.nv ≠ startState.nv :=
  ⟨⟨after .syncToHw { startState with ramDirty := true }, rfl, by decide +kernel⟩,
    ⟨mainLoop { startState with ramDirty := true }, rfl, by decide +kernel⟩⟩

theorem test_witness_NoCycleIsServedBeforeBoot :
    ∃ s : State, s.events = [cycle false 0x0 0] ∧ s.handlersEnabled = false :=
  ⟨{ startState with events := [cycle false 0x0 0], handlersEnabled := false }, rfl, rfl⟩

/-- S0 meets every invariant. -/
theorem test_witness_masks : MasksHold startState := by
  unfold MasksHold
  decide +kernel

theorem test_witness_mode : ModeMirrored startState := by
  unfold ModeMirrored
  decide +kernel

theorem test_witness_StepKeepsBankInvariants :
    MasksHold startState ∧ ModeMirrored startState ∧ ChannelShows startState ∧ ChannelShows replying ∧
      ∃ t, step startState = .next t := by
  refine ⟨test_witness_masks, test_witness_mode, ?_, ?_, _, rfl⟩
  · unfold ChannelShows
    decide +kernel
  · unfold ChannelShows
    decide +kernel

theorem test_witness_StepKeepsAssemblerInvariant :
    AssemblerInv startState ∧ AssemblerInv (queued [] 0 startState) ∧
      AssemblerInv { startState with inb := { startState.inb with pos := 1, state := .accumulating } } ∧
      AssemblerInv { startState with inb := { startState.inb with pos := 5, state := .headerKnown, len := 0, expected := 9 } } ∧
      ∃ t, step startState = .next t := by
  refine ⟨?_, ?_, ?_, ?_, _, rfl⟩ <;> unfold AssemblerInv <;> decide +kernel

theorem test_witness_StepKeepsReplyBounds :
    replying.params.blockWf ∧ replying.outb.active = true ∧ ReplyBounds replying ∧ ∃ t, step replying = .next t := by
  refine ⟨by decide +kernel, by decide +kernel, ?_, _, rfl⟩
  unfold ReplyBounds
  decide +kernel

theorem test_witness_StepKeepsQueuesClockAndMemory :
    QueueBounds startState ∧ ClockInv startState ∧ MemoryWf { startState with cfg := [(0x10, 0xAA)] } ∧
      ∃ t, step startState = .next t := by
  refine ⟨?_, ?_, ?_, _, rfl⟩
  · unfold QueueBounds
    decide +kernel
  · unfold ClockInv
    decide +kernel
  · unfold MemoryWf
    decide +kernel

theorem test_witness_ReadRegisterReturnsTheCell :
    ¬ ((1 : BankNo) = 1#2 ∧ (0x2#4).toNat ≤ 1) ∧ ¬ ((0 : BankNo) = 1#2 ∧ (0x0#4).toNat ≤ 1) ∧ MasksHold startState ∧
      ModeMirrored startState :=
  ⟨by decide, by decide, test_witness_masks, test_witness_mode⟩

/-- The cycle held for exactly the cap, and for one poll more. -/
theorem test_witness_HeldReadSamplesUndrivenLines :
    let s := fun n => { startState with bus := { startState.bus with timing := { hold := n, undriven := 5 } } }
    (s 1000).bus.timing.hold ≤ (s 1000).params.readPollCap ∧ (s 1001).params.readPollCap < (s 1001).bus.timing.hold := by
  decide +kernel

theorem test_witness_ReadMsghiMovesTheCursor : ChannelShows startState ∧ startState.outb.active = false := by
  unfold ChannelShows
  decide +kernel

theorem test_witness_ReplyReadsBackByteForByte :
    ChannelShows replying ∧ replying.outb.active = true ∧ replying.outb.pos = 0 ∧ 0 < replying.outb.len := by
  unfold ChannelShows
  decide +kernel

/-- Each clause of the illegal digits at its boundary: 0xA; hour 24 from `H10 = 2`; day 00; month 00; month 13. -/
theorem test_witness_FullNibbleTimeWrites :
    let s := startState.setCell 0 0x5 2
    let z := (startState.setCell 0 0x8 0).setCell 0 0xA 0
    0x9 < (0xA#4).toNat ∧ 23 < 10 * (s.cell 0 0x5).toNat + (0x4#4).toNat ∧
      10 * (z.cell 0 0x8).toNat + (0x0#4).toNat = 0 ∧ 10 * (z.cell 0 0xA).toNat + (0x0#4).toNat = 0 ∧
      12 < 10 * (startState.cell 0 0xA).toNat + (0x3#4).toNat := by decide +kernel

theorem test_witness_RamWrites :
    2 ≤ (2#2).toNat ∧ 2 ≤ (3#2).toNat ∧ (0x0#4).toNat ≤ 0xC ∧ (0xC#4).toNat ≤ 0xC := by decide

theorem test_witness_ChannelWritesFeedTheAssembler : (queued [] 0 startState).inb.state = .queuedSlow := rfl

/-- Both positions of the magic. -/
theorem test_witness_MagicPhaseResynchronizes :
    let s := { startState with inb := { startState.inb with pos := 1, state := .accumulating } }
    startState.inb.state ≠ .queuedSlow ∧ startState.inb.pos ≤ 1 ∧ s.inb.state ≠ .queuedSlow ∧ s.inb.pos ≤ 1 := by
  decide +kernel

/-- The third byte, the last of the header, the last of the frame. -/
theorem test_witness_BytesAfterTheMagic :
    let s := fun pos st => { startState with inb := { startState.inb with pos := pos, state := st, len := 0, expected := 9 } }
    (∀ u ∈ [s 2 .accumulating, s 4 .accumulating, s 8 .headerKnown], u.inb.state ≠ .queuedSlow ∧ 2 ≤ u.inb.pos) ∧
      (s 4 .accumulating).inb.pos + 1 = hdrLen (s 4 .accumulating).params ∧
      (s 8 .headerKnown).inb.pos + 1 = (s 8 .headerKnown).inb.expected := by decide +kernel

/-- Both cases of a tick, at the last value before the clock wraps. -/
theorem test_witness_UptimeAnswersTheTime :
    let s := { startState with events := [.tick 1 1], uptimeUs := 0xFFFFFFFFFFFFFFFE }
    s.events = [.tick 1 1] ∧ s.uptimeUs.toNat + 1 < 2 ^ 64 ∧ { s with events := [.tick 1 0] }.events = [.tick 1 0] := by
  decide +kernel

/-- Bytes that just fill the queue, and one more. -/
theorem test_witness_ConsOutputDrainsTheQueue :
    let s := { startState with events := [.consoleOut [7, 8]], consOut := List.replicate 254 1 }
    let t := { startState with events := [.consoleOut [7, 8]], consOut := List.replicate 255 1 }
    s.handlersEnabled = true ∧ QueueBounds s ∧ s.consOut.length + 2 ≤ s.params.consOutCap ∧ QueueBounds t ∧
      t.params.consOutCap ≤ t.consOut.length + 2 := by
  unfold QueueBounds
  decide +kernel

theorem test_witness_ConsInputTakesAllOrNothing :
    let s := { startState with events := [.consoleIn 2], consIn := [1] }
    s.events = [.consoleIn 2] ∧ s.handlersEnabled = true := by decide +kernel

theorem test_witness_TestWriteDoesNothing : MasksHold startState := test_witness_masks

theorem test_witness_IdAnswersTheFixedLayout : startState.params.blockWf := by decide +kernel

/-- A table that lists the empty payload, and one that lists nothing. -/
theorem test_witness_PollInputAnswersTheEnvironment :
    let s := { startState with params := { defaultParams with pollTable := [([], [7])] } }
    s.params.pollTable = [] ++ (Memory.readBytes s.inb.buf (hdrLen s.params) s.inb.len, [7]) :: [] ∧
      startState.params.pollTable = [] := by decide +kernel

theorem test_witness_UnknownAnswersUnkcmd : 0x0D ≤ (0x0D#6).toNat ∧ 0x0D ≤ (0x3F#6).toNat := by decide

theorem test_witness_CrcDetectsEveryChangedByte : defaultParams.crc = .isoHdlc ∧ (0x02#8) ≠ 0x03#8 := by decide

/-- The empty argument and the longest one. -/
theorem test_witness_RequestFrameRoundTrips :
    startState.params.blockWf ∧ startState.inb.state = .idle ∧ startState.inb.pos = 0 ∧
      ([] : List Byte).length ≤ startState.params.payloadMax ∧
      (List.replicate 256 0#8).length ≤ startState.params.payloadMax := by decide +kernel

/-- One millisecond after the deadline, and at it. -/
theorem test_witness_TimeoutsDiscardWhatIsStuck :
    let s := { startState with
      events := [.inTimeout], now := 1001, inb := { startState.inb with pos := 3, state := .accumulating, deadline := 1000 } }
    let r := { replying with events := [.outTimeout], now := 1000 }
    s.handlersEnabled = true ∧ s.inb.deadline < s.now ∧ r.handlersEnabled = true ∧ ¬ r.outb.deadline < r.now := by
  decide +kernel

/-- Enabled with a date, enabled with none, not enabled. -/
theorem test_witness_SyncCommitsOrDiscards :
    let s := { startState with events := [.syncToHw], timeDirty := true }
    (s.handlersEnabled = true ∧ s.timerEnabled = true ∧ (emuFields s).isSome = true) ∧
      emuFields (s.setCell 0 0x0 0xA) = none ∧ startState.timeDirty = false ∧ startState.ramDirty = false := by
  decide +kernel

theorem test_witness_BackupRoundTrips : MasksHold startState ∧ (nvStore startState).nv = (nvStore startState).nv :=
  ⟨test_witness_masks, rfl⟩

theorem test_witness_DigitsOfTheHardwareClock : startState.hw.time.legal = true := by decide +kernel

theorem test_witness_WakeupRefreshesTheDigits :
    let s := { startState with events := [.wakeup] }
    s.handlersEnabled = true ∧ s.hw.time.sec = s.lastSec ∧ s.hw.time.sec ≠ { s with lastSec := 55 }.lastSec := by
  decide +kernel

/-- The last second of the century. -/
theorem test_witness_HardwareClockTicks :
    ({ sec := 59, min := 59, hour := 23, wday := 4, day := 31, month := 12, year := 99 } : DateTime).legal = true := by
  decide +kernel

/-- A backup with the cookie and one without. -/
theorem test_witness_BootLeavesTheResetTable :
    let s := { startState with events := [.boot bootValues], handlersEnabled := false }
    s.handlersEnabled = false ∧ s.nv.toList.head? ≠ some 0x52503543#32 ∧
      (s.nv.set 0 0x52503543).toList.head? = some 0x52503543#32 := by decide +kernel

/-- The host's next step is that of a call in a given phase. -/
def stepping (c : HostCall) (s : State) : State := { calling c s with events := [.hostStep 0 prompt] }

/-- The host about to read the mode, to select the bank with the mode it read, and to restore it. -/
theorem test_witness_HostSelectsBankOneAndRestores :
    let s := stepping { inCall .selectBank with savedMode := 0x8 } startState
    (∀ p ∈ [HostPhase.readMode, .selectBank, .restoreMode],
      let u := stepping (inCall p) startState
      u.events = [.hostStep 0 prompt] ∧ u.handlersEnabled = true ∧ u.host.calls[0]? = some (inCall p) ∧
        (inCall p).phase = p) ∧
      prompt.hold ≤ s.params.readPollCap ∧ (0x8#4) = s.cell 0 0xD := by decide +kernel

theorem test_witness_HostSelectsBankOneAndRestores_mirrored :
    ModeMirrored (stepping (inCall .selectBank) startState) := by
  unfold ModeMirrored
  decide +kernel

/-- Inside the delay, at its end with more polls to come, the last poll. -/
theorem test_witness_HostPollIsBounded :
    let s := fun n w => stepping { inCall .poll with pollsLeft := n, waitUntil := w } startState
    (s 125 1).handlersEnabled = true ∧ (s 125 1).host.clock < 1 ∧ ¬ (s 125 0).host.clock < 0 ∧
      (s 1 0).host.calls[0]? = some { inCall .poll with pollsLeft := 1, waitUntil := 0 } := by decide +kernel

theorem test_witness_HostChecksTheMagic :
    let s := stepping (inCall .magic3) (inBank 1)
    s.handlersEnabled = true ∧ s.host.calls[0]? = some (inCall .magic3) ∧ (inCall .magic3).phase = .magic3 := by
  decide +kernel

theorem test_witness_HostJudgesTheReply :
    ([0x68, 0x69] : List Byte).length < 2 ^ (8 * defaultParams.lenWidth) ∧ ([1, 2, 3, 4] : List Byte).length = 4 := by
  decide

/-- A try that may be repeated, one with no try left, one that answers UNKCMD; a try about to start again; a call that has
returned. -/
theorem test_witness_HostRetriesOnlyFramingErrors :
    let c := fun st n => { inCall .restoreMode with triesLeft := n, result := some { status := st, replyLen := 0 } }
    (∀ d ∈ [c 0x0B 9, c 0x0B 0, c 0x02 9, inCall .retry, inCall .returned],
      (stepping d startState).host.calls[0]? = some d ∧
        (stepped (stepping d startState)).events = []) ∧
      (callAfter (c 0x0B 9) startState).map (·.phase) = some .retry ∧
      (callAfter (c 0x0B 0) startState).map (·.phase) = some .returned ∧
      (callAfter (c 0x02 9) startState).map (·.phase) = some .returned ∧
      (callAfter (inCall .retry) startState).map (·.triesLeft) = some 8 := by decide +kernel

/-- The first and the last byte of a request, NULL and another command; the last byte of a reply and one before it. -/
theorem test_witness_HostSendsAndReceivesBytes :
    ∀ d ∈ [inCall .selectBank, { inCall .putHi with toSend := [0xCD, 0x68] }, { inCall .putLo with toSend := [0xCD, 0x68] },
            { inCall .putLo with toSend := [0xA0] }, { inCall .putLo with toSend := [0x12], cmd := 0 }, inCall .getHi,
            { inCall .getLo with received := [0, 0, 0, 0xFF, 0x41, 0xD9] }, inCall .getLo],
      let s := stepping d (inBank 1)
      s.events = [.hostStep 0 prompt] ∧ s.handlersEnabled = true ∧ s.host.calls[0]? = some d := by decide +kernel

end Sys2Proof.Tests
end

/-! # The block's moves (spec/10_state.md)

Every step of the machine is a chain of a few elementary moves of the block. An invariant of the state is then proved
once per move, instead of once per instruction, command and agent. -/

section
namespace Sys2Proof.Machine

open Sys2Proof.Config

/-! ## Masked stores -/

/-- The cells that only masked stores write: all but the channel cells and `MODE`. -/
abbrev PlainCell (b : BankNo) (a : Nibble) : Prop := isChannel b a = false ∧ a ≠ modeAddr

/-- `t` is `s` but for the dirty flags and for plain cells that hold no bit outside their write mask. -/
structure MaskedStores (s t : State) : Prop where
  frame : t = { s with bank := t.bank, timeDirty := t.timeDirty, ramDirty := t.ramDirty }
  cells : ∀ b a, t.cell b a = s.cell b a ∨ PlainCell b a ∧ t.cell b a &&& ~~~(wmask b a) = 0#4

theorem MaskedStores.refl (s : State) : MaskedStores s s := ⟨rfl, fun _ _ => .inl rfl⟩

theorem MaskedStores.trans {s t u : State} (h : MaskedStores s t) (k : MaskedStores t u) : MaskedStores s u where
  frame := by rw [k.frame, h.frame]
  cells b a := by
    rcases k.cells b a with hk | hk
    · rw [hk]
      exact h.cells b a
    · exact .inr hk

theorem MaskedStores.foldl {α : Type} {f : State → α → State} {l : List α}
    (h : ∀ s, ∀ x ∈ l, MaskedStores s (f s x)) (s : State) : MaskedStores s (l.foldl f s) := by
  induction l generalizing s with
  | nil => exact .refl s
  | cons x l ih =>
    exact (h s x List.mem_cons_self).trans (ih (fun s y hy => h s y (List.mem_cons_of_mem x hy)) _)

theorem maskedStores_setCell {b : BankNo} {a v : Nibble} (hp : PlainCell b a) (hv : v &&& ~~~(wmask b a) = 0#4)
    (s : State) : MaskedStores s (s.setCell b a v) where
  frame := rfl
  cells b' a' := by
    rw [State.cell_setCell]
    split
    · next h =>
      obtain ⟨rfl, rfl⟩ := h
      exact .inr ⟨hp, hv⟩
    · exact .inl rfl

theorem masked_and_not_mask (d m : Nibble) : (d &&& m) &&& ~~~m = 0#4 := by
  revert d m
  decide

theorem maskedStores_storeMasked {b : BankNo} {a : Nibble} (d : Nibble) (hp : PlainCell b a) (s : State) :
    MaskedStores s (storeMasked b a d s) :=
  maskedStores_setCell hp (masked_and_not_mask d _) s

theorem maskedStores_wrCell {b : BankNo} {a : Nibble} (d : Nibble) (hp : PlainCell b a) (s : State) :
    MaskedStores s (wrCell b a d s) where
  frame := by rw [wrCell_eq]
  cells b' a' := by
    rw [wrCell, cell_markDirty]
    exact (maskedStores_storeMasked d hp s).cells b' a'

theorem plainCell_of_alarm {a : Nibble} (h : 0x2#4 ≤ a ∧ a ≤ 0x8#4) : PlainCell 1#2 a := by
  revert a
  decide

theorem maskedStores_alarmClear (s : State) : MaskedStores s (alarmClear s) where
  frame := rfl
  cells b a := by
    rw [cell_alarmClear]
    split
    · next h =>
      obtain ⟨rfl, ha⟩ := h
      exact .inr ⟨plainCell_of_alarm ha, BitVec.zero_and⟩
    · exact .inl rfl

theorem plainCell_of_mem_digitCells {t : DateTime} {c : BankNo × Nibble × Nat} (h : c ∈ digitCells t) :
    PlainCell c.1 c.2.1 := by
  have hc : (c.1, c.2.1) ∈ (digitCells t).map (fun c => (c.1, c.2.1)) := List.mem_map_of_mem h
  have all : ∀ p ∈ (digitCells t).map (fun c => (c.1, c.2.1)), PlainCell p.1 p.2 := by
    simp only [digitCells, List.map_cons, List.map_nil]
    decide
  exact all _ hc

theorem maskedStores_digitsOfHw (s : State) : MaskedStores s (digitsOfHw s) :=
  .foldl (fun t _ hc => maskedStores_storeMasked _ (plainCell_of_mem_digitCells hc) t) s

theorem plainCell_of_mem_restoredCells : ∀ c ∈ restoredCells, PlainCell c.1 c.2 := by
  unfold restoredCells
  decide

theorem maskedStores_nvRestore (s : State) : MaskedStores s (nvRestore s) := by
  unfold nvRestore
  split
  · exact .foldl (fun t c hc => maskedStores_storeMasked _ (plainCell_of_mem_restoredCells c hc) t) s
  · exact .refl s

/-- BOOT's cells (R411): `MODE` 0x8 over a bank of zeros, then masked stores. -/
theorem maskedStores_boot (s : State) :
    MaskedStores (setMode 0x8#4 { s with bank := Vector.replicate 64 0#4 }) (digitsOfHw (nvRestore (bootBank s))) :=
  ((maskedStores_setCell (by decide) (by decide) _).trans (maskedStores_nvRestore _)).trans (maskedStores_digitsOfHw _)

/-! ## BOOT's fields beyond the bank (R411) -/

@[simp] theorem bootSequence_params (s : State) : (bootSequence s).params = s.params := by
  simp [bootSequence, bootProtocol, bootBank]

@[simp] theorem bootSequence_inb (s : State) :
    (bootSequence s).inb = { s.inb with hi := 0, pos := 0, state := .idle } := by
  simp [bootSequence, bootProtocol, bootBank]

@[simp] theorem bootSequence_outb (s : State) :
    (bootSequence s).outb = { s.outb with active := false, pos := 0, len := 0 } := by
  simp [bootSequence, bootProtocol, bootBank]

@[simp] theorem bootSequence_hw (s : State) : (bootSequence s).hw = { s.hw with wp := true } := by
  simp [bootSequence, bootProtocol, bootBank]

@[simp] theorem bootSequence_lastSec (s : State) : (bootSequence s).lastSec = s.hw.time.sec := by
  simp [bootSequence, bootProtocol, bootBank]

@[simp] theorem bootSequence_consOut (s : State) : (bootSequence s).consOut = [] := rfl

@[simp] theorem bootSequence_consIn (s : State) : (bootSequence s).consIn = [] := rfl

@[simp] theorem bootSequence_cfg (s : State) : (bootSequence s).cfg = s.cfg := by
  simp [bootSequence, bootProtocol, bootBank]

@[simp] theorem bootSequence_map (s : State) : (bootSequence s).map = s.map := by
  simp [bootSequence, bootProtocol, bootBank]

/-! ## What a command does -/

/-- What a command has done to `s` when it composes a reply with payload `data` (R270 to R290): a queue or a store may
have changed, within its bounds, and the payload fits the buffer (R292). -/
structure CommandEffect (s u : State) (data : List Byte) : Prop where
  frame : u = { s with consOut := u.consOut, consIn := u.consIn, cfg := u.cfg, map := u.map }
  queues : QueueBounds s → QueueBounds u
  stores : s.cfg.wf ∧ s.map.wf → u.cfg.wf ∧ u.map.wf
  fits : s.params.blockWf → data.length ≤ s.params.payloadMax

/-- A command changes nothing (NULL, R272), or has its effect and answers. -/
inductive Answered : State → State → Prop
  | silent (s : State) : Answered s s
  | replied {s u : State} {data : List Byte} (st : Status) : CommandEffect s u data → Answered s (reply st data u)

/-- A reply that comes with no other effect. -/
theorem answered_reply {data : List Byte} (st : Status) {s : State}
    (fits : s.params.blockWf → data.length ≤ s.params.payloadMax) : Answered s (reply st data s) :=
  .replied st ⟨rfl, id, id, fits⟩

theorem answered_reply_nil (st : Status) (s : State) : Answered s (reply st [] s) :=
  answered_reply st fun _ => Nat.zero_le _

theorem idPayload_length (p : Params) : (idPayload p).length = idLen := by
  simp [idPayload, idLen]

theorem setStore_wf {m : Memory} (size : Nat) (p : List Byte) (h : m.wf) : (setStore m size p).1.wf := by
  unfold setStore
  split
  · exact h
  · split
    · exact h
    · exact Memory.writeBytes_wf _ _ h

theorem getStore_length_le (m : Memory) (size chunkMax : Nat) (p : List Byte) :
    (getStore m size chunkMax p).2.length ≤ chunkMax := by
  unfold getStore
  split
  · exact Nat.zero_le _
  · split
    · exact Nat.zero_le _
    · rw [Memory.readBytes_length]
      exact Nat.min_le_right _ _

theorem envPollInput_length_le {p : Params} (hp : p.blockWf) (request : List Byte) :
    (envPollInput p request).2.length ≤ p.chunkMax := by
  obtain ⟨-, -, -, -, -, -, -, -, -, -, -, htable⟩ := hp
  unfold envPollInput
  split
  · next e he => exact htable e (List.mem_of_find?_eq_some he)
  · exact Nat.zero_le _

theorem chunkMax_le_payloadMax {p : Params} (hp : p.blockWf) : p.chunkMax ≤ p.payloadMax := by
  obtain ⟨-, -, -, h, -⟩ := hp
  exact h

theorem idLen_le_payloadMax {p : Params} (hp : p.blockWf) : idLen ≤ p.payloadMax := hp.1

theorem runConsOutput_answered (s : State) : Answered s (runConsOutput s) :=
  .replied .ok
    { frame := rfl
      queues := fun ⟨hin, hout⟩ => ⟨hin, by simp only [List.length_drop]; omega⟩
      stores := id
      fits := fun hp => by
        have := chunkMax_le_payloadMax hp
        simp only [List.length_take]
        omega }

theorem runConsInput_answered (s : State) : Answered s (runConsInput s) := by
  unfold runConsInput
  split
  · next h =>
    exact .replied .ok
      { frame := rfl
        queues := fun ⟨_, hout⟩ => ⟨by simpa using h, hout⟩
        stores := id
        fits := fun _ => Nat.zero_le _ }
  · exact answered_reply_nil .fail s

theorem runSet_answered (s : State) : Answered s (runSet s) :=
  .replied _ ⟨rfl, id, fun ⟨hc, hm⟩ => ⟨setStore_wf _ _ hc, hm⟩, fun _ => Nat.zero_le _⟩

theorem runSetMap_answered (s : State) : Answered s (runSetMap s) :=
  .replied _ ⟨rfl, id, fun ⟨hc, hm⟩ => ⟨hc, setStore_wf _ _ hm⟩, fun _ => Nat.zero_le _⟩

theorem runGet_answered (s : State) : Answered s (runGet s) :=
  answered_reply _ fun hp => (getStore_length_le _ _ _ _).trans (chunkMax_le_payloadMax hp)

theorem runGetMap_answered (s : State) : Answered s (runGetMap s) :=
  answered_reply _ fun hp => (getStore_length_le _ _ _ _).trans (chunkMax_le_payloadMax hp)

theorem runPollInput_answered (s : State) : Answered s (runPollInput s) :=
  answered_reply _ fun hp => (envPollInput_length_le hp _).trans (chunkMax_le_payloadMax hp)

theorem runId_answered (s : State) : Answered s (runId s) :=
  answered_reply _ fun hp => (idPayload_length _).trans_le (idLen_le_payloadMax hp)

theorem runUptime_answered (s : State) : Answered s (runUptime s) :=
  answered_reply _ fun hp => (beBytes_length _ _).trans_le
    ((show 8 ≤ idLen by decide).trans (idLen_le_payloadMax hp))

theorem runTestpatt_answered (s : State) : Answered s (runTestpatt s) :=
  answered_reply _ fun hp => (show testPattern.length ≤ idLen by decide).trans (idLen_le_payloadMax hp)

theorem runLoopback_answered {s : State} (h : s.inb.len ≤ s.params.payloadMax) : Answered s (runLoopback s) :=
  answered_reply _ fun _ => by rwa [payload, Memory.readBytes_length]

/-- All that the command of a frame whose payload fits can do (R270). -/
theorem execCmd_answered {s : State} (h : s.inb.len ≤ s.params.payloadMax) : Answered s (execCmd s) := by
  unfold execCmd
  cases decodeCmd (cmdByte s) with
  | cmdNop => exact answered_reply_nil .ok s
  | cmdId => exact runId_answered s
  | cmdUptime => exact runUptime_answered s
  | cmdTestpatt => exact runTestpatt_answered s
  | cmdLoopback => exact runLoopback_answered h
  | cmdConsOutput => exact runConsOutput_answered s
  | cmdConsInput => exact runConsInput_answered s
  | cmdSet => exact runSet_answered s
  | cmdGet => exact runGet_answered s
  | cmdSetMap => exact runSetMap_answered s
  | cmdGetMap => exact runGetMap_answered s
  | cmdPollInput => exact runPollInput_answered s
  | cmdUnknown => exact answered_reply_nil .unkcmd s
  | _ => exact .silent s

/-! ## The moves -/

/-- One elementary change of the block. -/
inductive BlockMove : State → State → Prop
  /-- what no invariant of the block speaks of -/
  | aside {s t : State} : t = { s with
        timeDirty := t.timeDirty, ramDirty := t.ramDirty, nv := t.nv, now := t.now, uptimeUs := t.uptimeUs
        diag := t.diag, bus := t.bus, handlersEnabled := t.handlersEnabled, host := t.host, events := t.events } →
      BlockMove s t
  /-- host writes to stored cells, the alarm clear and the digits of the clock (R141, R179, R210) -/
  | store {s t : State} : MaskedStores s t → BlockMove s t
  /-- WR_MODE (R176) -/
  | mode (d : Nibble) (s : State) : BlockMove s (setMode d s)
  /-- the protocol half of WR_RESET (R180) -/
  | protoReset (s : State) : BlockMove s (protoReset s)
  /-- a read of the reply's high nibble (R143) -/
  | readHi {s : State} : s.outb.active = true → s.outb.pos % 2 = 0 →
      BlockMove s { s with outb := { s.outb with pos := s.outb.pos + 1 } }
  /-- a read of a low nibble that is not the reply's last (R144) -/
  | readLo {s : State} : s.outb.active = true → s.outb.pos % 2 = 1 → s.outb.pos + 1 ≠ 2 * s.outb.len →
      BlockMove s (outLoad { s with outb := { s.outb with pos := s.outb.pos + 1 } })
  /-- the reply's last read and its timeout (R144, R313, R314) -/
  | endReply (s : State) : BlockMove s (outFinish s)
  /-- WR_MSGHI, and the latch cleared by WR_MSGLO (R172, R173) -/
  | latch (d : Nibble) (s : State) : BlockMove s { s with inb := { s.inb with hi := d } }
  /-- a received byte that completes no fast frame (R242) -/
  | assemble {b : Byte} {s : State} : asmPush b s = { s with inb := (asmPush b s).inb } →
      (s.inb.buf.wf → (asmPush b s).inb.buf.wf) → BlockMove s (asmPush b s)
  /-- a complete frame is answered and the assembler cleared (R249 to R251); `i` holds the frame -/
  | answer {s u : State} {i : Inbound} : (s.inb.buf.wf → i.buf.wf) → Answered { s with inb := i } u →
      BlockMove s (clearInbound u)
  /-- the inbound timeout (R252) -/
  | abandon (s : State) : BlockMove s { s with inb := { s.inb with pos := 0, state := .idle, hi := 0 } }
  /-- HWRTC.tick (R213) -/
  | hwTick (s : State) : BlockMove s (hwTick s)
  /-- the commit of a valid date (R207) -/
  | commit {f : DateTime} (s : State) : f.legal = true → BlockMove s (hwCommit f s)
  /-- WAKEUP takes the second (R211) -/
  | newSecond (s : State) : BlockMove s { s with lastSec := s.hw.time.sec }
  /-- CONSOLE appends (R399) -/
  | consoleOut (bytes : List Byte) (s : State) : BlockMove s (consoleOut bytes s)
  /-- CONSOLE removes (R399) -/
  | consoleIn (n : Nat) (s : State) : BlockMove s (consoleIn n s)
  /-- BOOT (R411) -/
  | boot (v : BootValues) (s : State) : BlockMove s (bootSequence (loadBootValues v s))

/-- A chain of moves. -/
abbrev Moves : State → State → Prop := Relation.ReflTransGen BlockMove

theorem BlockMove.moves {s t : State} (h : BlockMove s t) : Moves s t := .single h

theorem Moves.of_eq {s t : State} (h : t = s) : Moves s t := h ▸ .refl

/-! ## The bus cycle as moves -/

theorem postReadMsghi_moves (s : State) : Moves s (postReadMsghi s) := by
  rcases postReadMsghi_cases s with ⟨ha, hp, h⟩ | ⟨-, h⟩
  · rw [h]
    exact (BlockMove.readHi ha hp).moves
  · exact .of_eq h

theorem postReadMsglo_moves (s : State) : Moves s (postReadMsglo s) := by
  rcases postReadMsglo_cases s with ⟨-, -, -, h⟩ | ⟨ha, hp, hl, h⟩ | ⟨-, h⟩
  · rw [h]
    exact (BlockMove.endReply s).moves
  · rw [h]
    exact (BlockMove.readLo ha hp hl).moves
  · exact .of_eq h

theorem driveRead_moves (v : Nibble) (s : State) : Moves s (driveRead v s) := (BlockMove.aside rfl).moves

theorem resetAction_moves (d : Nibble) (s : State) : Moves s (resetAction d s) := by
  have halarm : Moves s (if d.getLsbD 0 then alarmClear s else s) := by
    split
    · exact (BlockMove.store (maskedStores_alarmClear s)).moves
    · exact .refl
  unfold resetAction
  simp only
  split
  · exact halarm.tail (.protoReset _)
  · exact halarm

theorem len_le_of_crcOk {s : State} (h : crcOk s = true) : s.inb.len ≤ s.params.payloadMax :=
  ((crcOk_iff s).mp h).1

theorem crcOk_of_fastPathTakes {s : State} (h : fastPathTakes s = true) : crcOk s = true := by
  simp only [fastPathTakes, Bool.and_eq_true] at h
  obtain ⟨⟨hcrc, -⟩, -⟩ := h
  exact hcrc

/-- The magic phase changes the assembler's state alone (R244). -/
theorem magicPhase_frame (b : Byte) (s : State) : magicPhase b s = { s with inb := (magicPhase b s).inb } := by
  unfold magicPhase startMagic
  split_ifs <;> rfl

theorem magicPhase_wf (b : Byte) {s : State} (h : s.inb.buf.wf) : (magicPhase b s).inb.buf.wf := by
  unfold magicPhase startMagic
  split_ifs
  · exact Memory.write_wf _ _ h
  · exact h
  · exact Memory.write_wf _ _ h
  · exact Memory.write_wf _ _ h
  · exact h

theorem storeByte_wf (b : Byte) {s : State} (h : s.inb.buf.wf) : (storeByte b s).inb.buf.wf := by
  simp only [storeByte]
  split
  · exact Memory.write_wf _ _ h
  · exact h

theorem asmPush_moves (b : Byte) (s : State) : Moves s (asmPush b s) := by
  rcases asmPush_cases b s with ⟨-, h⟩ | ⟨-, -, h⟩ | ⟨-, -, u, hu, hpush⟩
  · exact .of_eq h
  · refine (BlockMove.assemble ?_ ?_).moves
    · rw [h]
      exact magicPhase_frame b s
    · rw [h]
      exact magicPhase_wf b
  · have hframe : u = { s with inb := u.inb } := by
      rw [hu]
      split <;> rfl
    have hbuf : s.inb.buf.wf → u.inb.buf.wf := fun hs => by
      rw [hu]
      split <;> exact storeByte_wf b hs
    rcases hpush with ⟨-, -, h⟩ | ⟨-, h⟩
    · rcases complete_cases u with ⟨hfast, hc⟩ | ⟨-, hc⟩
      · have hans := execCmd_answered (len_le_of_crcOk (crcOk_of_fastPathTakes hfast))
        rw [hframe] at hans h hc
        rw [h, hc]
        exact (BlockMove.answer hbuf hans).moves
      · refine (BlockMove.assemble ?_ ?_).moves <;> rw [h, hc]
        · rw [hframe]
        · exact hbuf
    · refine (BlockMove.assemble ?_ ?_).moves <;> rw [h]
      · exact hframe
      · exact hbuf

theorem wrMsglo_moves (d : Nibble) (s : State) : Moves s (wrMsglo d s) :=
  (BlockMove.latch 0 s).moves.trans (asmPush_moves _ _)

theorem exists_ofNat_of_le_twelve {a : Nibble} (ha : a ≤ 0xC#4) : ∃ n, n ≤ 12 ∧ a = BitVec.ofNat 4 n :=
  ⟨a.toNat, ha, by simp⟩

theorem le_twelve {a : Nibble} (hD : a ≠ 0xD#4) (hE : a ≠ 0xE#4) (hF : a ≠ 0xF#4) : a ≤ 0xC#4 := by
  revert a
  decide

/-- The writes of bank 0 store through the mask (R145 to R157). -/
theorem exec_decodeTimeWrite {a : Nibble} (ha : a ≤ 0xC#4) (d : Nibble) (s : State) :
    exec (decodeTimeWrite a d) s = .next (wrCell 0#2 a d s) := by
  obtain ⟨n, hn, rfl⟩ := exists_ofNat_of_le_twelve ha
  interval_cases n <;> rfl

/-- The writes of bank 1 beyond the channel store through the mask (R160 to R170). -/
theorem exec_decodeBank1Write {a : Nibble} (h2 : 2#4 ≤ a) (ha : a ≤ 0xC#4) (d : Nibble) (s : State) :
    exec (decodeBank1Write a d) s = .next (wrCell 1#2 a d s) := by
  obtain ⟨n, hn, rfl⟩ := exists_ofNat_of_le_twelve ha
  interval_cases n
  · exact absurd h2 (by decide)
  · exact absurd h2 (by decide)
  all_goals rfl

/-- All that a write cycle can do (R102, R103, R141). -/
theorem exec_decodeWrite_cases (bank : BankNo) (a d : Nibble) (s : State) :
    exec (decodeWrite bank a d) s = .next (setMode d s) ∨ exec (decodeWrite bank a d) s = .next s ∨
      exec (decodeWrite bank a d) s = .next (resetAction d s) ∨
      exec (decodeWrite bank a d) s = .next { s with inb := { s.inb with hi := d } } ∨
      exec (decodeWrite bank a d) s = .next (wrMsglo d s) ∨
      (PlainCell bank a ∧ exec (decodeWrite bank a d) s = .next (wrCell bank a d s)) := by
  unfold decodeWrite
  split_ifs with hD hE hF h0 h1
  · exact .inl rfl
  · exact .inr (.inl rfl)
  · exact .inr (.inr (.inl rfl))
  · subst h0
    exact .inr (.inr (.inr (.inr (.inr ⟨⟨rfl, hD⟩, exec_decodeTimeWrite (le_twelve hD hE hF) d s⟩))))
  · subst h1
    have hsplit : ∀ a : Nibble, a = 0#4 ∨ a = 1#4 ∨ 2#4 ≤ a ∧ isChannel 1#2 a = false := by decide
    rcases hsplit a with rfl | rfl | ⟨h2, hch⟩
    · exact .inr (.inr (.inr (.inl rfl)))
    · exact .inr (.inr (.inr (.inr (.inl rfl))))
    · exact .inr (.inr (.inr (.inr (.inr ⟨⟨hch, hD⟩, exec_decodeBank1Write h2 (le_twelve hD hE hF) d s⟩))))
  · have hch : isChannel bank a = false := by simp [isChannel, msgBank, h1]
    exact .inr (.inr (.inr (.inr (.inr ⟨⟨hch, hD⟩, rfl⟩))))

theorem decodeWrite_moves {bank : BankNo} {a d : Nibble} {s t : State} (h : exec (decodeWrite bank a d) s = .next t) :
    Moves s t := by
  rcases exec_decodeWrite_cases bank a d s with e | e | e | e | e | ⟨hp, e⟩ <;> cases h.symm.trans e
  · exact (BlockMove.mode d s).moves
  · exact .refl
  · exact resetAction_moves d s
  · exact (BlockMove.latch d s).moves
  · exact wrMsglo_moves d s
  · exact (BlockMove.store (maskedStores_wrCell d hp s)).moves

theorem decodeRead_moves {bank : BankNo} {a d : Nibble} {s t : State} (h : exec (decodeRead bank a d) s = .next t) :
    Moves s t := by
  unfold decodeRead at h
  split_ifs at h <;> cases h
  · exact (driveRead_moves _ s).trans (postReadMsghi_moves _)
  · exact (driveRead_moves _ s).trans (postReadMsglo_moves _)
  · exact driveRead_moves _ s

theorem busCycle_moves {c : BusCycle} {s t : State} (h : busCycle c s = .next t) : Moves s t := by
  rcases busCycle_cases c s with ⟨-, e⟩ | ⟨-, e⟩
  · rw [e, decodeBus] at h
    refine (BlockMove.aside (t := openCycle c s) rfl).moves.trans ?_
    split at h
    · exact decodeWrite_moves h
    · exact decodeRead_moves h
  · cases h.symm.trans e
    exact (BlockMove.aside rfl).moves

theorem hostStep_moves {k : Nat} {tm : BusTiming} {s t : State} (h : hostStep k tm s = .next t) : Moves s t := by
  rcases hostStep_eq_next h with e | ⟨cyc, u, hu, e⟩ <;> rw [e]
  · exact (BlockMove.aside rfl).moves
  · exact (busCycle_moves hu).tail (.aside rfl)

/-! ## The other agents' steps as moves -/

theorem slowDispatch_moves (s : State) : Moves s (slowDispatch s) := by
  rcases slowDispatch_cases s with ⟨-, h⟩ | ⟨-, ⟨-, h⟩ | ⟨-, -, h⟩ | ⟨-, -, h⟩ | ⟨hlen, -, -, h⟩⟩
  · exact .of_eq h
  · rw [h]
    exact (BlockMove.answer id (answered_reply_nil .badlen s)).moves
  · rw [h]
    exact (BlockMove.answer id (answered_reply_nil .crc s)).moves
  · rw [h]
    exact (BlockMove.answer id (answered_reply_nil .unkcmd s)).moves
  · rw [h]
    exact (BlockMove.answer id (execCmd_answered hlen)).moves

theorem wakeup_moves (s : State) : Moves s (wakeup s) := by
  rcases wakeup_cases s with ⟨-, h⟩ | ⟨-, -, -, h⟩ | ⟨-, -, h⟩
  · exact .of_eq h
  · rw [h]
    exact (BlockMove.newSecond s).moves.tail (.store (maskedStores_digitsOfHw _))
  · rw [h]
    exact (BlockMove.newSecond s).moves

theorem syncCommit_moves (s : State) : Moves s (syncCommit s) := by
  rcases syncCommit_cases s with ⟨f, -, hf, h⟩ | ⟨-, h⟩
  · rw [h]
    exact (BlockMove.commit s (emuFields_legal hf)).moves
  · exact .of_eq h

theorem syncToHw_moves (s : State) : Moves s (syncToHw s) := by
  rcases syncToHw_cases s with ⟨-, h⟩ | ⟨-, h⟩
  · rw [h]
    exact (syncCommit_moves s).tail (.aside rfl)
  · exact .of_eq h

theorem inTimeout_moves (s : State) : Moves s (inTimeout s) := by
  rcases inTimeout_cases s with ⟨-, hinb, h⟩ | ⟨-, h⟩
  · rw [h, hinb]
    exact (BlockMove.abandon s).moves.tail (.aside rfl)
  · exact .of_eq h

theorem outTimeout_moves (s : State) : Moves s (outTimeout s) := by
  rcases outTimeout_cases s with ⟨-, -, h⟩ | ⟨-, h⟩
  · rw [h]
    exact (BlockMove.endReply s).moves
  · exact .of_eq h

theorem mainLoop_moves (s : State) : Moves s (mainLoop s) := by
  rcases mainLoop_cases s with ⟨-, h⟩ | ⟨-, -, h⟩ | ⟨-, -, -, h⟩ | ⟨-, -, -, -, h⟩ | ⟨-, -, -, -, h⟩
  · rw [h]
    exact slowDispatch_moves s
  · rw [h]
    exact syncToHw_moves s
  · rw [h]
    exact inTimeout_moves s
  · rw [h]
    exact outTimeout_moves s
  · exact .of_eq h

theorem onMcu_moves {f : State → State} {s : State} (hf : Moves s (f s)) : Moves s (onMcu f s) := by
  rcases onMcu_cases f s with ⟨-, h⟩ | ⟨-, h⟩
  · rw [h]
    exact hf
  · exact .of_eq h

theorem tick_moves (ms us : Nat) (s : State) : Moves s (tick ms us s) := by
  unfold tick
  split
  · exact (BlockMove.aside rfl).moves
  · exact .refl

theorem boot_moves (v : BootValues) (s : State) : Moves s (boot v s) := by
  rcases boot_cases v s with ⟨-, h⟩ | ⟨-, h⟩
  · rw [h]
    exact (BlockMove.boot v s).moves
  · exact .of_eq h

theorem runEvent_moves {e : Event} {s t : State} (h : runEvent e s = .next t) : Moves s t := by
  cases e with
  | bus c => exact busCycle_moves h
  | hostStep k tm => exact hostStep_moves h
  | wakeup => cases h; exact onMcu_moves (wakeup_moves s)
  | slowDispatch => cases h; exact onMcu_moves (slowDispatch_moves s)
  | syncToHw => cases h; exact onMcu_moves (syncToHw_moves s)
  | inTimeout => cases h; exact onMcu_moves (inTimeout_moves s)
  | outTimeout => cases h; exact onMcu_moves (outTimeout_moves s)
  | hwTick => cases h; exact (BlockMove.hwTick s).moves
  | tick ms us => cases h; exact tick_moves ms us s
  | consoleOut bytes => cases h; exact onMcu_moves (BlockMove.consoleOut bytes s).moves
  | consoleIn n => cases h; exact onMcu_moves (BlockMove.consoleIn n s).moves
  | boot v => cases h; exact boot_moves v s
  | hostCall | hostTick | mcuReset => cases h; exact (BlockMove.aside rfl).moves

/-- Every step of the machine is a chain of moves. -/
theorem step_moves {s t : State} (h : step s = .next t) : Moves s t := by
  unfold step at h
  cases he : s.events with
  | nil =>
    cases h.symm.trans (nextStep_nil he)
    exact onMcu_moves (mainLoop_moves s)
  | cons e rest =>
    rw [nextStep_cons he] at h
    exact (BlockMove.aside rfl).moves.trans (runEvent_moves h)

/-- What every move keeps, every step keeps. -/
theorem step_keeps {P : State → Prop} (keeps : ∀ {s t : State}, BlockMove s t → P s → P t) {s t : State}
    (h : step s = .next t) (hs : P s) : P t :=
  Relation.ReflTransGen.head_induction_on (motive := fun u _ => P u → P t) (step_moves h) id
    (fun hm _ ih hu => ih (keeps hm hu)) hs

end Sys2Proof.Machine
end

/-! # The bank's invariants (R26, R27, R28, R46) -/

section
namespace Sys2Proof.Machine

open Sys2Proof.Config

/-! ## What keeps the masks and the mirror -/

/-- Of the bank, `t` differs from `s` in the channel cells alone. -/
structure OnlyChannel (s t : State) : Prop where
  curBank : t.curBank = s.curBank
  timerEnabled : t.timerEnabled = s.timerEnabled
  cells : ∀ b a, isChannel b a = false → t.cell b a = s.cell b a

theorem isChannel_modeAddr (b : BankNo) : isChannel b modeAddr = false := by
  revert b
  decide

theorem ne_modeAddr_of_isChannel {b : BankNo} {a : Nibble} (h : isChannel b a = true) : a ≠ modeAddr := by
  rintro rfl
  exact absurd (h.symm.trans (isChannel_modeAddr b)) (by decide)

theorem isChannel_hi : isChannel msgBank msgHiAddr = true := rfl

theorem isChannel_lo : isChannel msgBank msgLoAddr = true := rfl

theorem onlyChannel_setChannel (h l : Nibble) (s : State) : OnlyChannel s (setChannel h l s) where
  curBank := rfl
  timerEnabled := rfl
  cells b a hch := by
    rw [cell_setChannel, if_neg, if_neg]
    · rintro ⟨rfl, rfl⟩
      exact absurd hch (by decide)
    · rintro ⟨rfl, rfl⟩
      exact absurd hch (by decide)

/-- A reply writes no cell but the channel's. -/
theorem Answered.onlyChannel {s u : State} (h : Answered s u) : OnlyChannel s u := by
  cases h with
  | silent => exact ⟨rfl, rfl, fun _ _ _ => rfl⟩
  | replied st he =>
    obtain ⟨hcur, htimer, hcells⟩ := onlyChannel_setChannel _ _ _
    rw [he.frame]
    exact ⟨hcur, htimer, hcells⟩

theorem MasksHold.of_onlyChannel {s t : State} (h : OnlyChannel s t) (hs : MasksHold s) : MasksHold t := by
  intro b a hch
  rw [h.cells b a hch]
  exact hs b a hch

theorem ModeMirrored.of_onlyChannel {s t : State} (h : OnlyChannel s t) (hs : ModeMirrored s) : ModeMirrored t := by
  intro b
  rw [h.cells b _ (isChannel_modeAddr b), h.cells 0#2 _ (isChannel_modeAddr _), h.curBank, h.timerEnabled]
  exact hs b

theorem MasksHold.of_maskedStores {s t : State} (h : MaskedStores s t) (hs : MasksHold s) : MasksHold t := by
  intro b a hch
  rcases h.cells b a with he | ⟨-, hm⟩
  · rw [he]
    exact hs b a hch
  · exact hm

theorem MaskedStores.cell_mode {s t : State} (h : MaskedStores s t) (b : BankNo) :
    t.cell b modeAddr = s.cell b modeAddr :=
  (h.cells b modeAddr).elim id fun ⟨hp, _⟩ => absurd rfl hp.2

theorem MaskedStores.cell_channel {s t : State} (h : MaskedStores s t) {b : BankNo} {a : Nibble}
    (hch : isChannel b a = true) : t.cell b a = s.cell b a :=
  (h.cells b a).elim id fun ⟨hp, _⟩ => absurd (hch.symm.trans hp.1) (by decide)

theorem MaskedStores.curBank {s t : State} (h : MaskedStores s t) : t.curBank = s.curBank := by rw [h.frame]

theorem MaskedStores.timerEnabled {s t : State} (h : MaskedStores s t) : t.timerEnabled = s.timerEnabled := by
  rw [h.frame]

theorem ModeMirrored.of_maskedStores {s t : State} (h : MaskedStores s t) (hs : ModeMirrored s) : ModeMirrored t := by
  intro b
  rw [h.cell_mode, h.cell_mode, h.curBank, h.timerEnabled]
  exact hs b

theorem wmask_modeAddr (b : BankNo) : ~~~(wmask b modeAddr) = 0#4 := by
  revert b
  decide

theorem masksHold_setMode (d : Nibble) {s : State} (hs : MasksHold s) : MasksHold (setMode d s) := by
  intro b a hch
  rw [cell_setMode]
  split
  · next ha => rw [ha, wmask_modeAddr, BitVec.and_zero]
  · exact hs b a hch

theorem modeMirrored_setMode (d : Nibble) (s : State) : ModeMirrored (setMode d s) := fun b => by
  simp only [cell_setMode, if_true, setMode_curBank, setMode_timerEnabled, and_self]

/-! ## BOOT's bank (R411) -/

theorem cell_replicate_zero (s : State) (b : BankNo) (a : Nibble) :
    ({ s with bank := Vector.replicate 64 0#4 } : State).cell b a = 0#4 := by
  simp [State.cell, Vector.get_eq_getElem]

/-- BOOT's last lines leave the bank alone. -/
theorem cell_bootProtocol (s : State) (b : BankNo) (a : Nibble) : (bootProtocol s).cell b a = s.cell b a := rfl

theorem bootProtocol_curBank (s : State) : (bootProtocol s).curBank = s.curBank := rfl

theorem bootProtocol_timerEnabled (s : State) : (bootProtocol s).timerEnabled = s.timerEnabled := rfl

theorem masksHold_bootSequence (s : State) : MasksHold (bootSequence s) := by
  have hzero : MasksHold { s with bank := Vector.replicate 64 0#4 } := fun b a _ => by
    rw [cell_replicate_zero, BitVec.zero_and]
  intro b a hch
  rw [bootSequence, cell_bootProtocol]
  exact MasksHold.of_maskedStores (maskedStores_boot s) (masksHold_setMode _ hzero) b a hch

theorem modeMirrored_bootSequence (s : State) : ModeMirrored (bootSequence s) := by
  have hcells := ModeMirrored.of_maskedStores (maskedStores_boot s) (modeMirrored_setMode _ _)
  intro b
  rw [bootSequence, cell_bootProtocol, cell_bootProtocol, bootProtocol_curBank, bootProtocol_timerEnabled]
  exact hcells b

theorem cell_channel_bootSequence (s : State) {b : BankNo} {a : Nibble} (hch : isChannel b a = true) :
    (bootSequence s).cell b a = 0#4 := by
  rw [bootSequence, cell_bootProtocol, (maskedStores_boot s).cell_channel hch, cell_setMode,
    if_neg (ne_modeAddr_of_isChannel hch), cell_replicate_zero]

/-! ## The channel cells -/

/-- The channel cells show the byte at `out_pos / 2`. -/
theorem channelShows_outLoad {s : State} (h : s.outb.active = true) : ChannelShows (outLoad s) := by
  rw [ChannelShows, if_pos (by exact h)]
  exact ⟨by simp [cell_outLoad, msgHiAddr, msgLoAddr], by simp [cell_outLoad]⟩

/-- With the reply ended the channel cells read 0. -/
theorem channelShows_cleared {s : State} (hactive : s.outb.active = false) (hpos : s.outb.pos = 0) :
    ChannelShows (setChannel 0#4 0#4 s) := by
  rw [ChannelShows, if_neg (by exact fun h => absurd (h.symm.trans hactive) (by decide))]
  exact ⟨by simp [cell_setChannel], by simp [cell_setChannel], hpos⟩

/-- `ChannelShows` reads the two channel cells and the reply alone. -/
theorem ChannelShows.congr {s t : State} (hcells : ∀ b a, isChannel b a = true → t.cell b a = s.cell b a)
    (hout : t.outb = s.outb) (hs : ChannelShows s) : ChannelShows t := by
  rw [ChannelShows, hout, hcells _ _ isChannel_hi, hcells _ _ isChannel_lo]
  exact hs

theorem ChannelShows.of_answered {s u : State} (h : Answered s u) (hs : ChannelShows s) : ChannelShows u := by
  cases h with
  | silent => exact hs
  | replied st he => exact channelShows_outLoad rfl

theorem ChannelShows.of_readHi {s : State} (hactive : s.outb.active = true) (heven : s.outb.pos % 2 = 0)
    (hs : ChannelShows s) : ChannelShows { s with outb := { s.outb with pos := s.outb.pos + 1 } } := by
  have hpos : (s.outb.pos + 1) / 2 = s.outb.pos / 2 := by omega
  rw [ChannelShows, if_pos hactive] at hs
  rw [ChannelShows, if_pos (by exact hactive)]
  simp only [hpos]
  exact hs

theorem channelShows_bootSequence (s : State) : ChannelShows (bootSequence s) := by
  rw [ChannelShows, bootSequence_outb, if_neg Bool.false_ne_true]
  exact ⟨cell_channel_bootSequence s isChannel_hi, cell_channel_bootSequence s isChannel_lo, rfl⟩

/-! ## The moves keep them -/

theorem BlockMove.masksHold {s t : State} (h : BlockMove s t) (hs : MasksHold s) : MasksHold t := by
  cases h with
  | aside h => rw [h]; exact hs
  | store h => exact hs.of_maskedStores h
  | mode d => exact masksHold_setMode d hs
  | protoReset | readLo | endReply => exact .of_onlyChannel (onlyChannel_setChannel _ _ _) hs
  | assemble h => rw [h]; exact hs
  | answer _ h =>
    have hu := MasksHold.of_onlyChannel h.onlyChannel hs
    exact hu
  | boot v => exact masksHold_bootSequence _
  | readHi | latch | abandon | hwTick | commit | newSecond | consoleOut | consoleIn => exact hs

theorem BlockMove.modeMirrored {s t : State} (h : BlockMove s t) (hs : ModeMirrored s) : ModeMirrored t := by
  cases h with
  | aside h => rw [h]; exact hs
  | store h => exact hs.of_maskedStores h
  | mode d => exact modeMirrored_setMode d s
  | protoReset | readLo | endReply => exact .of_onlyChannel (onlyChannel_setChannel _ _ _) hs
  | assemble h => rw [h]; exact hs
  | answer _ h =>
    have hu := ModeMirrored.of_onlyChannel h.onlyChannel hs
    exact hu
  | boot v => exact modeMirrored_bootSequence _
  | readHi | latch | abandon | hwTick | commit | newSecond | consoleOut | consoleIn => exact hs

theorem BlockMove.channelShows {s t : State} (h : BlockMove s t) (hs : ChannelShows s) : ChannelShows t := by
  cases h with
  | aside h => rw [h]; exact hs
  | store h => exact hs.congr (fun _ _ => h.cell_channel) (by rw [h.frame])
  | mode d =>
    refine ChannelShows.congr (s := s) (fun b a hch => ?_) rfl hs
    rw [cell_setMode, if_neg (ne_modeAddr_of_isChannel hch)]
  | protoReset | endReply => exact channelShows_cleared rfl rfl
  | readHi hactive heven => exact hs.of_readHi hactive heven
  | readLo hactive => exact channelShows_outLoad hactive
  | assemble h => rw [h]; exact hs
  | answer _ h =>
    have hu := ChannelShows.of_answered h hs
    exact hu
  | boot v => exact channelShows_bootSequence _
  | latch | abandon | hwTick | commit | newSecond | consoleOut | consoleIn => exact hs

/-- Settles O12: each invariant is kept by every move of the block. -/
theorem stepKeepsBankInvariants : Obligations.StepKeepsBankInvariants :=
  fun _ _ hmasks hmode hchannel h =>
    ⟨step_keeps BlockMove.masksHold h hmasks, step_keeps BlockMove.modeMirrored h hmode,
      step_keeps BlockMove.channelShows h hchannel⟩

end Sys2Proof.Machine
end

/-! # The assembler's invariant (R42, R43) -/

section
namespace Sys2Proof.Machine

open Sys2Proof.Config

/-! ## The assembler's states -/

theorem crcLen_pos : 0 < crcLen := by decide

theorem four_le_hdrLen (p : Params) : 4 ≤ hdrLen p := by
  unfold hdrLen Params.lenWidth
  split <;> decide

theorem assemblerInv_of_idle {s : State} (hstate : s.inb.state = .idle) (hpos : s.inb.pos = 0) : AssemblerInv s := by
  simp [AssemblerInv, hstate, hpos]

theorem assemblerInv_of_accumulating {s : State} (hstate : s.inb.state = .accumulating) (hlow : 1 ≤ s.inb.pos)
    (hhigh : s.inb.pos < hdrLen s.params) : AssemblerInv s := by
  have hpos : s.inb.pos ≠ 0 := by omega
  simpa [AssemblerInv, hstate, hpos, hhigh] using hlow

/-- The length and the expected total that a known header fixes (R43). -/
def HeaderFixed (s : State) : Prop :=
  s.inb.expected = hdrLen s.params + s.inb.len + crcLen ∧ s.inb.len < 2 ^ (8 * s.params.lenWidth)

theorem assemblerInv_of_headerKnown {s : State} (hstate : s.inb.state = .headerKnown)
    (hlow : hdrLen s.params ≤ s.inb.pos) (hhigh : s.inb.pos < s.inb.expected) (hfixed : HeaderFixed s) :
    AssemblerInv s := by
  have hpos : s.inb.pos ≠ 0 := by
    have := four_le_hdrLen s.params
    omega
  simpa [AssemblerInv, hstate, hpos, hlow, hhigh, HeaderFixed] using hfixed

theorem assemblerInv_of_queued {s : State} (hstate : s.inb.state = .queuedSlow) (hpos : s.inb.pos = s.inb.expected)
    (hfixed : HeaderFixed s) : AssemblerInv s := by
  obtain ⟨hexp, hlen⟩ := hfixed
  have := four_le_hdrLen s.params
  have hne : s.inb.pos ≠ 0 := by omega
  have hlow : hdrLen s.params ≤ s.inb.pos := by omega
  refine ⟨by simp [hstate, hne], by simp [hstate, hlow], by simp [hstate], fun _ => hpos, fun _ => ⟨hexp, hlen⟩⟩

theorem AssemblerInv.headerFixed {s : State} (h : AssemblerInv s) (hstate : s.inb.state = .headerKnown) :
    HeaderFixed s := by
  obtain ⟨-, -, -, -, hfixed⟩ := h
  exact hfixed (.inl hstate)

/-- Past the magic the assembler accumulates the header, or knows it and is short of the total. -/
theorem AssemblerInv.past_magic {s : State} (h : AssemblerInv s) (hq : s.inb.state ≠ .queuedSlow)
    (hpos : 2 ≤ s.inb.pos) :
    (s.inb.state = .accumulating ∧ s.inb.pos < hdrLen s.params) ∨
      (s.inb.state = .headerKnown ∧ hdrLen s.params ≤ s.inb.pos ∧ s.inb.pos < s.inb.expected ∧ HeaderFixed s) := by
  have hfixed := h.headerFixed
  obtain ⟨hidle, hacc, hknown, -, -⟩ := h
  cases hstate : s.inb.state with
  | idle =>
    have := hidle.mp hstate
    omega
  | accumulating => exact .inl ⟨rfl, (hacc.mp hstate).2⟩
  | headerKnown =>
    obtain ⟨hlow, hhigh⟩ := hknown hstate
    exact .inr ⟨rfl, hlow, hhigh, hfixed hstate⟩
  | queuedSlow => exact absurd hstate hq

/-! ## Receiving a byte -/

theorem startMagic_assemblerInv (b : Byte) (s : State) : AssemblerInv (startMagic b s) := by
  have := four_le_hdrLen s.params
  refine assemblerInv_of_accumulating rfl ?_ ?_ <;> simp only [startMagic] <;> omega

theorem magicPhase_assemblerInv (b : Byte) {s : State} (h : AssemblerInv s) (hpos : s.inb.pos < 2) :
    AssemblerInv (magicPhase b s) := by
  have hhdr := four_le_hdrLen s.params
  obtain ⟨-, hacc, -⟩ := h
  unfold magicPhase
  split_ifs with h0
  · exact startMagic_assemblerInv b s
  · exact assemblerInv_of_idle rfl rfl
  · exact assemblerInv_of_accumulating (hacc.mpr ⟨by omega, by omega⟩) (by simp) (by simp only; omega)
  · exact startMagic_assemblerInv b s
  · exact assemblerInv_of_idle rfl rfl

theorem lenField_lt (s : State) : lenField s < 2 ^ (8 * s.params.lenWidth) := by
  have h := beNat_lt (Memory.readBytes s.inb.buf 3 s.params.lenWidth)
  rwa [Memory.readBytes_length, show 256 = 2 ^ 8 from rfl, ← Nat.pow_mul] at h

/-- The header is complete and at least the trailer is still to come (R246). -/
theorem headerKnown_assemblerInv {s : State} (hpos : s.inb.pos = hdrLen s.params) : AssemblerInv (headerKnown s) := by
  have := crcLen_pos
  refine assemblerInv_of_headerKnown rfl hpos.ge ?_ ⟨rfl, lenField_lt s⟩
  simp only [headerKnown]
  omega

theorem complete_assemblerInv {s : State} (hpos : s.inb.pos = s.inb.expected) (hfixed : HeaderFixed s) :
    AssemblerInv (complete s) := by
  rcases complete_cases s with ⟨-, h⟩ | ⟨-, h⟩ <;> rw [h]
  · exact assemblerInv_of_idle rfl rfl
  · exact assemblerInv_of_queued rfl hpos hfixed

/-- A stored byte leaves the invariant, or has brought the frame's total in (R245 to R247). -/
theorem pushed_assemblerInv (b : Byte) {s u : State} (h : AssemblerInv s) (hq : s.inb.state ≠ .queuedSlow)
    (hpos : 2 ≤ s.inb.pos)
    (hu : u = if s.inb.pos + 1 = hdrLen s.params then headerKnown (storeByte b s) else storeByte b s) :
    AssemblerInv u ∨ u.inb.state = .headerKnown ∧ u.inb.pos = u.inb.expected ∧ HeaderFixed u := by
  by_cases hhdr : s.inb.pos + 1 = hdrLen s.params
  · rw [if_pos hhdr] at hu
    rw [hu]
    exact .inl (headerKnown_assemblerInv hhdr)
  · rw [if_neg hhdr] at hu
    rw [hu]
    rcases h.past_magic hq hpos with ⟨hstate, hlt⟩ | ⟨hstate, hlow, hlt, hfixed⟩
    · refine .inl (assemblerInv_of_accumulating hstate ?_ ?_) <;> simp only [storeByte] <;> omega
    · by_cases htotal : s.inb.pos + 1 = s.inb.expected
      · exact .inr ⟨hstate, htotal, hfixed⟩
      · refine .inl (assemblerInv_of_headerKnown hstate ?_ ?_ hfixed) <;> simp only [storeByte] <;> omega

theorem asmPush_assemblerInv (b : Byte) {s : State} (hs : AssemblerInv s) : AssemblerInv (asmPush b s) := by
  rcases asmPush_cases b s with ⟨-, h⟩ | ⟨-, hpos, h⟩ | ⟨hq, hpos, u, hu, hpush⟩
  · rwa [h]
  · rw [h]
    exact magicPhase_assemblerInv b hs hpos
  · have hinv := pushed_assemblerInv b hs hq hpos hu
    rcases hpush with ⟨hstate, htotal, h⟩ | ⟨hshort, h⟩ <;> rw [h]
    · rcases hinv with hinv | ⟨-, -, hfixed⟩
      · exact complete_assemblerInv htotal (hinv.headerFixed hstate)
      · exact complete_assemblerInv htotal hfixed
    · exact hinv.resolve_right fun ⟨hstate, htotal, _⟩ => hshort ⟨hstate, htotal⟩

/-! ## The moves keep it -/

theorem BlockMove.assemblerInv {s t : State} (h : BlockMove s t) (hs : AssemblerInv s) : AssemblerInv t := by
  cases h with
  | aside h => rw [h]; exact hs
  | store h => rw [h.frame]; exact hs
  | assemble => exact asmPush_assemblerInv _ hs
  | protoReset | answer | abandon => exact assemblerInv_of_idle rfl rfl
  | boot v =>
    exact assemblerInv_of_idle (congrArg Inbound.state (bootSequence_inb _)) (congrArg Inbound.pos (bootSequence_inb _))
  | mode | readHi | readLo | endReply | latch | hwTick | commit | newSecond | consoleOut | consoleIn => exact hs

/-- Settles O13: each move keeps the cursor in the range of its state; the received byte is the one that moves it. -/
theorem stepKeepsAssemblerInvariant : Obligations.StepKeepsAssemblerInvariant :=
  fun _ _ hs h => step_keeps BlockMove.assemblerInv h hs

end Sys2Proof.Machine
end

/-! # The reply's bounds (R45, R46, R292) -/

section
namespace Sys2Proof.Machine

open Sys2Proof.Config

/-- `ReplyBounds` holds when no reply is active. -/
theorem replyBounds_of_inactive {s : State} (h : s.outb.active = false) : ReplyBounds s :=
  fun hactive => absurd (hactive.symm.trans h) (by decide)

/-- A reply whose payload fits is within the buffer, with its cursor at the start (R292, R311). -/
theorem replyBounds_reply (st : Status) {data : List Byte} {s : State} (h : data.length ≤ s.params.payloadMax) :
    ReplyBounds (reply st data s) := by
  intro _
  have hoverhead : 0 < frameOverhead s.params := by
    have := four_le_hdrLen s.params
    unfold frameOverhead
    omega
  rw [reply_params, reply_outb, bufSize]
  simp only
  omega

theorem Answered.params {s u : State} (h : Answered s u) : u.params = s.params := by
  cases h with
  | silent => rfl
  | replied st he => rw [reply_params, he.frame]

theorem ReplyBounds.of_answered {s u : State} (h : Answered s u) (hp : s.params.blockWf) (hs : ReplyBounds s) :
    ReplyBounds u := by
  cases h with
  | silent => exact hs
  | replied st he =>
    refine replyBounds_reply st ?_
    rw [he.frame]
    exact he.fits hp

/-- The cursor advances inside an active reply's bounds. -/
theorem ReplyBounds.advance {s : State} (hs : ReplyBounds s) (hactive : s.outb.active = true)
    (hnext : s.outb.pos + 1 ≠ 2 * s.outb.len) :
    ReplyBounds { s with outb := { s.outb with pos := s.outb.pos + 1 } } := by
  obtain ⟨hlow, hhigh, hpos⟩ := hs hactive
  exact fun _ => ⟨hlow, hhigh, by simp only; omega⟩

/-! ## The moves keep them -/

theorem BlockMove.params {s t : State} (h : BlockMove s t) : t.params = s.params := by
  cases h with
  | aside h => rw [h]
  | store h => rw [h.frame]
  | assemble h => rw [h]
  | answer _ h =>
    have hu := h.params
    exact hu
  | boot v => exact bootSequence_params _
  | mode | protoReset | readHi | readLo | endReply | latch | abandon | hwTick | commit | newSecond | consoleOut
  | consoleIn => rfl

theorem BlockMove.replyBounds {s t : State} (h : BlockMove s t) (hp : s.params.blockWf) (hs : ReplyBounds s) :
    ReplyBounds t := by
  cases h with
  | aside h => rw [h]; exact hs
  | store h => rw [h.frame]; exact hs
  | protoReset | endReply => exact replyBounds_of_inactive rfl
  | readHi hactive heven => exact hs.advance hactive (by omega)
  | readLo hactive _ hnext => exact hs.advance hactive hnext
  | assemble h => rw [h]; exact hs
  | answer _ h =>
    have hu := ReplyBounds.of_answered h hp hs
    exact hu
  | boot v => exact replyBounds_of_inactive (congrArg Outbound.active (bootSequence_outb _))
  | mode | latch | abandon | hwTick | commit | newSecond | consoleOut | consoleIn => exact hs

/-- Settles O14: no move changes the parameters, and under their constraints every reply composed fits the buffer. -/
theorem stepKeepsReplyBounds : Obligations.StepKeepsReplyBounds := by
  intro s t hp hs h
  have keeps : ∀ {u v : State}, BlockMove u v → u.params = s.params ∧ ReplyBounds u →
      v.params = s.params ∧ ReplyBounds v := fun hm ⟨hparams, hu⟩ =>
    ⟨hm.params.trans hparams, hm.replyBounds (hparams ▸ hp) hu⟩
  exact step_keeps keeps h ⟨rfl, hs⟩

end Sys2Proof.Machine
end

/-! # The queues, the clock and the byte spaces (R48, R49, R51), and the state after reset -/

section
namespace Sys2Proof.Machine

open Sys2Proof.Config

/-! ## The queues -/

theorem queueBounds_consoleOut (bytes : List Byte) {s : State} (h : QueueBounds s) :
    QueueBounds (consoleOut bytes s) := by
  obtain ⟨hin, hout⟩ := h
  refine ⟨hin, ?_⟩
  simp only [consoleOut, List.length_append, List.length_take]
  omega

theorem queueBounds_consoleIn (n : Nat) {s : State} (h : QueueBounds s) : QueueBounds (consoleIn n s) := by
  obtain ⟨hin, hout⟩ := h
  refine ⟨?_, hout⟩
  simp only [consoleIn, List.length_drop]
  omega

theorem queueBounds_empty {s : State} (hin : s.consIn = []) (hout : s.consOut = []) : QueueBounds s := by
  simp [QueueBounds, hin, hout]

theorem QueueBounds.of_answered {s u : State} (h : Answered s u) (hs : QueueBounds s) : QueueBounds u := by
  cases h with
  | silent => exact hs
  | replied st he => exact he.queues hs

theorem BlockMove.queueBounds {s t : State} (h : BlockMove s t) (hs : QueueBounds s) : QueueBounds t := by
  cases h with
  | aside h => rw [h]; exact hs
  | store h => rw [h.frame]; exact hs
  | assemble h => rw [h]; exact hs
  | answer _ h =>
    have hu := QueueBounds.of_answered h hs
    exact hu
  | consoleOut bytes => exact queueBounds_consoleOut bytes hs
  | consoleIn n => exact queueBounds_consoleIn n hs
  | boot v => exact queueBounds_empty (bootSequence_consIn _) (bootSequence_consOut _)
  | mode | protoReset | readHi | readLo | endReply | latch | abandon | hwTick | commit | newSecond => exact hs

/-! ## The clock -/

theorem DateTime.legal_iff (t : DateTime) :
    t.legal = true ↔ t.sec ≤ 59 ∧ t.min ≤ 59 ∧ t.hour ≤ 23 ∧ t.wday ≤ 6 ∧ 1 ≤ t.month ∧ t.month ≤ 12 ∧ t.year ≤ 99 ∧
      1 ≤ t.day ∧ t.day ≤ dim t.month t.year := by
  simp only [DateTime.legal, Bool.and_eq_true, decide_eq_true_eq, and_assoc]

theorem one_le_dim (month year : Nat) : 1 ≤ dim month year := by
  unfold dim
  split
  · split <;> decide
  all_goals decide

/-- The next day of a legal date is legal (R213). -/
theorem nextDay_legal {t : DateTime} (h : t.legal = true) : (nextDay t).legal = true := by
  obtain ⟨hsec, hmin, hhour, -, hmonth, hmonth', hyear, -, -⟩ := t.legal_iff.mp h
  have hwday : (t.wday + 1) % 7 ≤ 6 := by omega
  have hjanuary : 1 ≤ 12 := by decide
  rw [DateTime.legal_iff]
  unfold nextDay
  split_ifs with hday hlast hcentury
  · exact ⟨hsec, hmin, hhour, hwday, hmonth, hmonth', hyear, Nat.le_add_left 1 _, hday⟩
  · exact ⟨hsec, hmin, hhour, hwday, Nat.le_add_left 1 _, hlast, hyear, Nat.le_refl 1, one_le_dim _ _⟩
  · exact ⟨hsec, hmin, hhour, hwday, Nat.le_refl 1, hjanuary, hcentury, Nat.le_refl 1, one_le_dim _ _⟩
  · exact ⟨hsec, hmin, hhour, hwday, Nat.le_refl 1, hjanuary, Nat.zero_le _, Nat.le_refl 1, one_le_dim _ _⟩

/-- The next second of a legal date is legal (R213). -/
theorem nextSecond_legal {t : DateTime} (h : t.legal = true) : (nextSecond t).legal = true := by
  obtain ⟨hsec, hmin, hhour, hrest⟩ := t.legal_iff.mp h
  unfold nextSecond
  split_ifs with h1 h2 h3
  · exact (DateTime.legal_iff _).mpr ⟨h1, hmin, hhour, hrest⟩
  · exact (DateTime.legal_iff _).mpr ⟨Nat.zero_le _, h2, hhour, hrest⟩
  · exact (DateTime.legal_iff _).mpr ⟨Nat.zero_le _, Nat.zero_le _, h3, hrest⟩
  · exact nextDay_legal ((DateTime.legal_iff _).mpr ⟨Nat.zero_le _, Nat.zero_le _, Nat.zero_le _, hrest⟩)

theorem DateTime.sec_le_of_legal {t : DateTime} (h : t.legal = true) : t.sec ≤ 59 := (t.legal_iff.mp h).1

/-- An answer leaves the clock alone. -/
theorem ClockInv.of_answered {s u : State} (h : Answered s u) (hs : ClockInv s) : ClockInv u := by
  cases h with
  | silent => exact hs
  | replied st he =>
    rw [ClockInv, reply_hw, reply_lastSec, he.frame]
    exact hs

theorem BlockMove.clockInv {s t : State} (h : BlockMove s t) (hs : ClockInv s) : ClockInv t := by
  obtain ⟨hlegal, hwp, hlast⟩ := hs
  cases h with
  | aside h => rw [h]; exact ⟨hlegal, hwp, hlast⟩
  | store h => rw [h.frame]; exact ⟨hlegal, hwp, hlast⟩
  | assemble h => rw [h]; exact ⟨hlegal, hwp, hlast⟩
  | answer _ h =>
    have hu := ClockInv.of_answered h ⟨hlegal, hwp, hlast⟩
    exact hu
  | hwTick => exact ⟨nextSecond_legal hlegal, hwp, hlast⟩
  | commit _ hf => exact ⟨hf, rfl, DateTime.sec_le_of_legal hf⟩
  | newSecond => exact ⟨hlegal, hwp, DateTime.sec_le_of_legal hlegal⟩
  | boot v =>
    rw [ClockInv, bootSequence_hw, bootSequence_lastSec]
    exact ⟨hlegal, rfl, DateTime.sec_le_of_legal hlegal⟩
  | mode | protoReset | readHi | readLo | endReply | latch | abandon | consoleOut | consoleIn =>
    exact ⟨hlegal, hwp, hlast⟩

/-! ## The byte spaces -/

/-- An answer writes the reply's buffer, and a store in its canonical form. -/
theorem MemoryWf.of_answered {s u : State} (h : Answered s u) (hs : MemoryWf s) : MemoryWf u := by
  cases h with
  | silent => exact hs
  | replied st he =>
    obtain ⟨hin, hout, hstores⟩ := hs
    rw [MemoryWf, reply_inb, reply_outb, reply_cfg, reply_map, he.frame]
    exact ⟨hin, Memory.writeBytes_wf _ _ hout, he.stores hstores⟩

theorem memoryWf_boot (v : BootValues) (s : State) : MemoryWf (bootSequence (loadBootValues v s)) := by
  rw [MemoryWf, bootSequence_inb, bootSequence_outb, bootSequence_cfg, bootSequence_map]
  exact ⟨Memory.ofBytes_wf _, Memory.ofBytes_wf _, Memory.ofBytes_wf _, Memory.ofBytes_wf _⟩

theorem BlockMove.memoryWf {s t : State} (h : BlockMove s t) (hs : MemoryWf s) : MemoryWf t := by
  cases h with
  | aside h => rw [h]; exact hs
  | store h => rw [h.frame]; exact hs
  | assemble h hbuf =>
    obtain ⟨hin, hrest⟩ := hs
    rw [h]
    exact ⟨hbuf hin, hrest⟩
  | answer hbuf h =>
    obtain ⟨hin, hrest⟩ := hs
    have hu := MemoryWf.of_answered h ⟨hbuf hin, hrest⟩
    exact hu
  | boot v => exact memoryWf_boot v s
  | mode | protoReset | readHi | readLo | endReply | latch | abandon | hwTick | commit | newSecond | consoleOut
  | consoleIn => exact hs

/-- Settles O15: each of the three is kept by every move of the block. -/
theorem stepKeepsQueuesClockAndMemory : Obligations.StepKeepsQueuesClockAndMemory :=
  fun _ _ hqueues hclock hmemory h =>
    ⟨step_keeps BlockMove.queueBounds h hqueues, step_keeps BlockMove.clockInv h hclock,
      step_keeps BlockMove.memoryWf h hmemory⟩

/-! ## The state after reset (R56) -/

theorem reset_params_wf : State.reset.params.wf := by decide

theorem reset_masksHold : MasksHold State.reset := by
  unfold MasksHold
  decide

theorem reset_modeMirrored : ModeMirrored State.reset := by
  unfold ModeMirrored
  decide

theorem reset_channelShows : ChannelShows State.reset := by
  unfold ChannelShows
  decide

/-- Settles O16: the reset values put the block at rest, with empty queues and byte spaces and a legal date. -/
theorem resetMeetsEveryInvariant : Obligations.ResetMeetsEveryInvariant :=
  ⟨reset_params_wf, reset_masksHold, reset_modeMirrored, reset_channelShows, replyBounds_of_inactive rfl,
    assemblerInv_of_idle rfl rfl, queueBounds_empty rfl rfl, ⟨by decide, rfl, by decide⟩,
    ⟨Memory.nil_wf, Memory.nil_wf, Memory.nil_wf, Memory.nil_wf⟩⟩

end Sys2Proof.Machine
end

/-! # The bus cycle and the reads (spec/20_memory.md, R72, R73, R80) -/

section
namespace Sys2Proof.Machine

/-! ## The step that serves a bus cycle -/

/-- A served cycle runs its decode word, formed with `cur_bank` at the falling edge (R73, R101). -/
theorem busCycle_served (c : BusCycle) (s : State) (h : s.handlersEnabled = true) :
    busCycle c s = exec (decode (.bus (cycleWord c s))) (openCycle c s) := by
  rcases busCycle_cases c s with ⟨-, hserved⟩ | ⟨hstopped, -⟩
  · exact hserved
  · exact absurd (h.symm.trans hstopped) (by decide)

/-- Settles O5: the step is the listed cycle, which is served, and its word is the one written out in the statement. -/
theorem busStepRunsDecodedInstruction : Obligations.BusStepRunsDecodedInstruction := by
  intro s c rest hevents henabled
  calc step s = busCycle c { s with events := rest } := nextStep_cons hevents
    _ = exec (decode (.bus (cycleWord c { s with events := rest }))) (openCycle c { s with events := rest }) :=
      busCycle_served c { s with events := rest } henabled

/-! ## What a read shows on the bus -/

@[simp] theorem driveRead_driven (v : Nibble) (s : State) : (driveRead v s).bus.driven = some v := rfl

/-- A read within the poll cap samples the nibble that the block drives (R80). -/
theorem driveRead_sampled_prompt (v : Nibble) {s : State} (h : s.bus.timing.hold ≤ s.params.readPollCap) :
    (driveRead v s).bus.sampled = some v :=
  congrArg some (if_pos h)

/-- A read held past the poll cap samples the undriven lines (R80, U6). -/
theorem driveRead_sampled_held (v : Nibble) {s : State} (h : s.params.readPollCap < s.bus.timing.hold) :
    (driveRead v s).bus.sampled = some s.bus.timing.undriven :=
  congrArg some (if_neg (Nat.not_le.mpr h))

@[simp] theorem postReadMsghi_bus (s : State) : (postReadMsghi s).bus = s.bus := by
  rcases postReadMsghi_cases s with ⟨-, -, h⟩ | ⟨-, h⟩ <;> rw [h]

@[simp] theorem postReadMsglo_bus (s : State) : (postReadMsglo s).bus = s.bus := by
  rcases postReadMsglo_cases s with ⟨-, -, -, h⟩ | ⟨-, -, -, h⟩ | ⟨-, h⟩ <;> rw [h]
  · exact outFinish_bus _
  · exact outLoad_bus _

/-- The three level-1 reads (R103). -/
def IsRead (i : Instr) : Prop := (∃ bank a d, i = .rdReg bank a d) ∨ (∃ d, i = .rdMsghi d) ∨ (∃ d, i = .rdMsglo d)

/-- On the bus a read is `driveRead` of one nibble: the post-read actions leave the lines alone (R140). -/
theorem exec_read_bus {i : Instr} (hi : IsRead i) (s : State) :
    ∃ v t, exec i s = .next t ∧ t.bus = (driveRead v s).bus := by
  rcases hi with ⟨bank, a, d, rfl⟩ | ⟨d, rfl⟩ | ⟨d, rfl⟩
  · exact ⟨s.cell bank a, _, rfl, rfl⟩
  · exact ⟨s.cell msgBank msgHiAddr, _, rfl, postReadMsghi_bus _⟩
  · exact ⟨s.cell msgBank msgLoAddr, _, rfl, postReadMsglo_bus _⟩

/-- Settles O18: every read shows on the bus what `driveRead` shows, whose two cases are the poll cap's. -/
theorem heldReadSamplesUndrivenLines : Obligations.HeldReadSamplesUndrivenLines := by
  intro i s hi
  obtain ⟨v, t, hexec, hbus⟩ := exec_read_bus hi s
  refine ⟨t, hexec, fun hprompt => ?_, fun hheld => ?_⟩ <;> rw [hbus]
  · rw [driveRead_sampled_prompt v hprompt, driveRead_driven]
  · exact driveRead_sampled_held v hheld

end Sys2Proof.Machine
end

/-! # The two opcode maps and their encodings (spec/30_encoding.md, R101, R103, R106, R112, R122) -/

section
namespace Sys2Proof.Machine

/-! ## The fields of a word (R101, R106)

A word's number is the weighted sum of its fields, and each field is a quotient and a remainder of it. -/

theorem toNat_append_eq_add {m n : Nat} (x : BitVec m) (y : BitVec n) : (x ++ y).toNat = x.toNat * 2 ^ n + y.toNat := by
  rw [BitVec.toNat_append, ← Nat.shiftLeft_add_eq_or_of_lt y.isLt, Nat.shiftLeft_eq]

theorem busWord_toNat (bank : BankNo) (w : Bool) (a d : Nibble) :
    (busWord bank w a d).toNat = 512 * bank.toNat + 256 * w.toNat + 16 * a.toNat + d.toNat := by
  simp only [busWord, toNat_append_eq_add, BitVec.toNat_ofBool]
  omega

theorem busBank_toNat (w : BitVec 11) : (busBank w).toNat = w.toNat / 512 := by
  have hw := w.isLt
  simp only [busBank, BitVec.extractLsb'_toNat, Nat.shiftRight_eq_div_pow]
  omega

theorem busIsWrite_toNat (w : BitVec 11) : (busIsWrite w).toNat = w.toNat / 256 % 2 := by
  simp only [busIsWrite, BitVec.getLsbD, Nat.testBit_eq_decide_div_mod_eq]
  rcases Nat.mod_two_eq_zero_or_one (w.toNat / 256) with h | h <;> simp [h]

theorem busAddr_toNat (w : BitVec 11) : (busAddr w).toNat = w.toNat / 16 % 16 := by
  simp only [busAddr, BitVec.extractLsb'_toNat, Nat.shiftRight_eq_div_pow]

theorem busData_toNat (w : BitVec 11) : (busData w).toNat = w.toNat % 16 := by
  simp only [busData, BitVec.extractLsb'_toNat, Nat.shiftRight_zero]

theorem cmdByteOf_toNat (opt : BitVec 2) (code : BitVec 6) :
    (cmdByteOf opt code).toNat = 64 * opt.toNat + code.toNat := by
  simp only [cmdByteOf, toNat_append_eq_add]
  omega

theorem cmdOpt_toNat (b : Byte) : (cmdOpt b).toNat = b.toNat / 64 := by
  have hb := b.isLt
  simp only [cmdOpt, BitVec.extractLsb'_toNat, Nat.shiftRight_eq_div_pow]
  omega

theorem cmdCode_toNat (b : Byte) : (cmdCode b).toNat = b.toNat % 64 := by
  simp only [cmdCode, BitVec.extractLsb'_toNat, Nat.shiftRight_zero]

section
variable (bank : BankNo) (w : Bool) (a d : Nibble)

@[simp] theorem busBank_busWord : busBank (busWord bank w a d) = bank := by
  have hw := w.toNat_lt
  apply BitVec.eq_of_toNat_eq
  rw [busBank_toNat, busWord_toNat]
  omega

@[simp] theorem busIsWrite_busWord : busIsWrite (busWord bank w a d) = w := by
  have hw := w.toNat_lt
  have hbit : (busIsWrite (busWord bank w a d)).toNat = w.toNat := by
    rw [busIsWrite_toNat, busWord_toNat]
    omega
  cases w with
  | false => exact Bool.toNat_eq_zero.mp hbit
  | true => exact Bool.toNat_eq_one.mp hbit

@[simp] theorem busAddr_busWord : busAddr (busWord bank w a d) = a := by
  apply BitVec.eq_of_toNat_eq
  rw [busAddr_toNat, busWord_toNat]
  omega

@[simp] theorem busData_busWord : busData (busWord bank w a d) = d := by
  apply BitVec.eq_of_toNat_eq
  rw [busData_toNat, busWord_toNat]
  omega

end

/-- The four fields make up the whole decode word (R101). -/
theorem busWord_fields (w : BitVec 11) : busWord (busBank w) (busIsWrite w) (busAddr w) (busData w) = w := by
  apply BitVec.eq_of_toNat_eq
  rw [busWord_toNat, busBank_toNat, busIsWrite_toNat, busAddr_toNat, busData_toNat]
  omega

@[simp] theorem cmdOpt_cmdByteOf (opt : BitVec 2) (code : BitVec 6) : cmdOpt (cmdByteOf opt code) = opt := by
  apply BitVec.eq_of_toNat_eq
  rw [cmdOpt_toNat, cmdByteOf_toNat]
  omega

@[simp] theorem cmdCode_cmdByteOf (opt : BitVec 2) (code : BitVec 6) : cmdCode (cmdByteOf opt code) = code := by
  apply BitVec.eq_of_toNat_eq
  rw [cmdCode_toNat, cmdByteOf_toNat]
  omega

/-- The two fields make up the whole command byte (R106). -/
theorem cmdByteOf_fields (b : Byte) : cmdByteOf (cmdOpt b) (cmdCode b) = b := by
  apply BitVec.eq_of_toNat_eq
  rw [cmdByteOf_toNat, cmdOpt_toNat, cmdCode_toNat]
  omega

/-! ## The decoder of a word given by its fields -/

theorem decode_busWord_read (bank : BankNo) (a d : Nibble) :
    decode (.bus (busWord bank false a d)) = decodeRead bank a d := by
  simp [decode, decodeBus]

theorem decode_busWord_write (bank : BankNo) (a d : Nibble) :
    decode (.bus (busWord bank true a d)) = decodeWrite bank a d := by
  simp [decode, decodeBus]

/-- The commands in code order (R112). -/
def commands (opt : BitVec 2) : List Instr :=
  [.cmdNull opt, .cmdNop opt, .cmdId opt, .cmdUptime opt, .cmdTestpatt opt, .cmdLoopback opt, .cmdConsOutput opt,
    .cmdConsInput opt, .cmdSet opt, .cmdGet opt, .cmdSetMap opt, .cmdGetMap opt, .cmdPollInput opt]

/-- A command code is beyond the table, or one of its thirteen numbers. -/
theorem code_cases (code : BitVec 6) : 0x0D ≤ code.toNat ∨ ∃ n, n ≤ 0xC ∧ code = BitVec.ofNat 6 n := by
  rcases Nat.lt_or_ge code.toNat 0x0D with h | h
  · exact .inr ⟨code.toNat, Nat.le_of_lt_succ h, by simp⟩
  · exact .inl h

/-- The level-2 map: the table of the commands, and `UNKNOWN` beyond it (R112, R116). -/
theorem decode_cmdByteOf (opt : BitVec 2) (code : BitVec 6) :
    decode (.cmd (cmdByteOf opt code)) = (commands opt).getD code.toNat (.cmdUnknown opt code) := by
  simp only [decode, decodeCmd, cmdOpt_cmdByteOf, cmdCode_cmdByteOf]
  split
  case h_14 =>
    refine (List.getD_eq_default _ _ ?_).symm
    rcases code_cases code with h | ⟨n, hn, rfl⟩
    · exact h
    · interval_cases n <;> contradiction
  all_goals simp [commands, *]

/-- The codes 0x00 to 0x0C are the commands in order (R112). -/
theorem decode_cmdByteOf_command {code : BitVec 6} (h : code.toNat ≤ 0x0C) (opt : BitVec 2) :
    some (decode (.cmd (cmdByteOf opt code))) = (commands opt)[code.toNat]? := by
  have hlt : code.toNat < (commands opt).length := Nat.lt_succ_of_le h
  rw [decode_cmdByteOf, List.getD_eq_getElem _ _ hlt, List.getElem?_eq_getElem hlt]

theorem decode_cmdByteOf_unknown {code : BitVec 6} (h : 0x0D ≤ code.toNat) (opt : BitVec 2) :
    decode (.cmd (cmdByteOf opt code)) = .cmdUnknown opt code := by
  rw [decode_cmdByteOf]
  exact List.getD_eq_default _ _ h

/-- A read that `RD_REG` admits is no read of the channel registers (R103, R142). -/
theorem decodeRead_rdReg {bank : BankNo} {a : Nibble} (h : rdRegAdmits bank a = true) (d : Nibble) :
    decodeRead bank a d = .rdReg bank a d := by
  simp only [rdRegAdmits, Bool.not_eq_true', Bool.and_eq_false_iff, beq_eq_false_iff_ne, Bool.or_eq_false_iff] at h
  unfold decodeRead
  rw [if_neg (by tauto), if_neg (by tauto)]

/-- Below the control registers a write decodes by its bank alone (R102, R103). -/
theorem decodeWrite_of_le_twelve {a : Nibble} (ha : a ≤ 0xC#4) (bank : BankNo) (d : Nibble) :
    decodeWrite bank a d =
      if bank = 0#2 then decodeTimeWrite a d else if bank = 1#2 then decodeBank1Write a d else .wrRam bank a d := by
  unfold decodeWrite
  rw [if_neg, if_neg, if_neg] <;> rintro rfl <;> exact absurd ha (by decide)

/-- Banks 2 and 3 hold RAM at the addresses below the control registers (R103, R171). -/
theorem decodeWrite_ram {bank : BankNo} {a : Nibble} (hbank : 2 ≤ bank.toNat) (ha : a ≤ 0xC#4) (d : Nibble) :
    decodeWrite bank a d = .wrRam bank a d := by
  rw [decodeWrite_of_le_twelve ha, if_neg, if_neg] <;> rintro rfl <;> exact absurd hbank (by decide)

/-! ## Decode after encode -/

/-- Settles O1, by cases on the instruction: a read, a write, a command. Only three constructors need their
well-formedness. -/
theorem encodeThenDecodeEveryInstruction : Obligations.EncodeThenDecodeEveryInstruction := by
  intro i hwf
  cases i with
  | rdReg bank a d => exact (decode_busWord_read bank a d).trans (decodeRead_rdReg hwf d)
  | wrRam bank a d =>
    obtain ⟨hbank, ha⟩ := Bool.and_eq_true_iff.mp hwf
    exact (decode_busWord_write bank a d).trans (decodeWrite_ram (of_decide_eq_true hbank) (of_decide_eq_true ha) d)
  | cmdUnknown opt code => exact decode_cmdByteOf_unknown (of_decide_eq_true hwf) opt
  | rdMsghi | rdMsglo => exact decode_busWord_read _ _ _
  | wrMode | wrTest | wrReset => exact decode_busWord_write _ _ _
  | wrS1 | wrS10 | wrMi1 | wrMi10 | wrH1 | wrH10 | wrDow | wrD1 | wrD10 | wrMo1 | wrMo10 | wrY1 | wrY10 =>
    exact decode_busWord_write _ _ _
  | wrMsghi | wrMsglo | wrAmi1 | wrAmi10 | wrAh1 | wrAh10 | wrAdow | wrAd1 | wrAd10 | wrU9 | wrH24 | wrLeap | wrUc =>
    exact decode_busWord_write _ _ _
  | cmdNull | cmdNop | cmdId | cmdUptime | cmdTestpatt | cmdLoopback | cmdConsOutput | cmdConsInput | cmdSet | cmdGet
  | cmdSetMap | cmdGetMap | cmdPollInput => exact decode_cmdByteOf _ _

/-! ## Encode after decode -/

/-- The instruction is one that an encoding spells, and `c` is its word. -/
def SpelledBy (i : Instr) (c : CodeWord) : Prop := wellFormed i = true ∧ encode i = c

theorem decodeRead_spelledBy (bank : BankNo) (a d : Nibble) :
    SpelledBy (decodeRead bank a d) (.bus (busWord bank false a d)) := by
  unfold decodeRead
  split_ifs with hhi hlo
  · obtain ⟨rfl, rfl⟩ := hhi
    exact ⟨rfl, rfl⟩
  · obtain ⟨rfl, rfl⟩ := hlo
    exact ⟨rfl, rfl⟩
  · refine ⟨?_, rfl⟩
    simp only [wellFormed, rdRegAdmits, Bool.not_eq_true', Bool.and_eq_false_iff, beq_eq_false_iff_ne,
      Bool.or_eq_false_iff]
    tauto

theorem decodeTimeWrite_spelledBy {a : Nibble} (ha : a ≤ 0xC#4) (d : Nibble) :
    SpelledBy (decodeTimeWrite a d) (.bus (busWord 0#2 true a d)) := by
  obtain ⟨n, hn, rfl⟩ := exists_ofNat_of_le_twelve ha
  interval_cases n <;> exact ⟨rfl, rfl⟩

theorem decodeBank1Write_spelledBy {a : Nibble} (ha : a ≤ 0xC#4) (d : Nibble) :
    SpelledBy (decodeBank1Write a d) (.bus (busWord 1#2 true a d)) := by
  obtain ⟨n, hn, rfl⟩ := exists_ofNat_of_le_twelve ha
  interval_cases n <;> exact ⟨rfl, rfl⟩

theorem wrRamAdmits_of {bank : BankNo} {a : Nibble} (h0 : bank ≠ 0#2) (h1 : bank ≠ 1#2) (ha : a ≤ 0xC#4) :
    wrRamAdmits bank a = true := by
  have hbank : ∀ b : BankNo, b ≠ 0#2 → b ≠ 1#2 → 2 ≤ b.toNat := by decide
  exact Bool.and_eq_true_iff.mpr ⟨decide_eq_true (hbank bank h0 h1), decide_eq_true ha⟩

theorem decodeWrite_spelledBy (bank : BankNo) (a d : Nibble) :
    SpelledBy (decodeWrite bank a d) (.bus (busWord bank true a d)) := by
  unfold decodeWrite
  split_ifs with hD hE hF h0 h1
  · exact hD ▸ ⟨rfl, rfl⟩
  · exact hE ▸ ⟨rfl, rfl⟩
  · exact hF ▸ ⟨rfl, rfl⟩
  · exact h0 ▸ decodeTimeWrite_spelledBy (le_twelve hD hE hF) d
  · exact h1 ▸ decodeBank1Write_spelledBy (le_twelve hD hE hF) d
  · exact ⟨wrRamAdmits_of h0 h1 (le_twelve hD hE hF), rfl⟩

/-- The level-1 map is total on the words of its fields (R103). -/
theorem decode_busWord_spelledBy (bank : BankNo) (w : Bool) (a d : Nibble) :
    SpelledBy (decode (.bus (busWord bank w a d))) (.bus (busWord bank w a d)) := by
  cases w with
  | false => exact decode_busWord_read bank a d ▸ decodeRead_spelledBy bank a d
  | true => exact decode_busWord_write bank a d ▸ decodeWrite_spelledBy bank a d

/-- The level-2 map is total on the command bytes of its fields (R112, R116). -/
theorem decode_cmdByteOf_spelledBy (opt : BitVec 2) (code : BitVec 6) :
    SpelledBy (decode (.cmd (cmdByteOf opt code))) (.cmd (cmdByteOf opt code)) := by
  rcases code_cases code with h | ⟨n, hn, rfl⟩
  · rw [decode_cmdByteOf_unknown h]
    exact ⟨decide_eq_true h, rfl⟩
  · rw [decode_cmdByteOf]
    interval_cases n <;> exact ⟨rfl, rfl⟩

/-- Settles O2: every word is the word of its fields. -/
theorem decodeThenEncodeEveryWord : Obligations.DecodeThenEncodeEveryWord
  | .bus w => busWord_fields w ▸ decode_busWord_spelledBy (busBank w) (busIsWrite w) (busAddr w) (busData w)
  | .cmd b => cmdByteOf_fields b ▸ decode_cmdByteOf_spelledBy (cmdOpt b) (cmdCode b)

/-! ## The maps in order -/

/-- The writes of bank 0 in address order (R103). -/
theorem decode_timeWrites {a : Nibble} (ha : a ≤ 0xC#4) (d : Nibble) :
    some (decode (.bus (busWord 0#2 true a d))) =
      [Instr.wrS1 d, .wrS10 d, .wrMi1 d, .wrMi10 d, .wrH1 d, .wrH10 d, .wrDow d, .wrD1 d, .wrD10 d, .wrMo1 d, .wrMo10 d,
        .wrY1 d, .wrY10 d][a.toNat]? := by
  rw [decode_busWord_write]
  obtain ⟨n, hn, rfl⟩ := exists_ofNat_of_le_twelve ha
  interval_cases n <;> rfl

/-- The writes of bank 1 in address order (R103). -/
theorem decode_bank1Writes {a : Nibble} (ha : a ≤ 0xC#4) (d : Nibble) :
    some (decode (.bus (busWord 1#2 true a d))) =
      [Instr.wrMsghi d, .wrMsglo d, .wrAmi1 d, .wrAmi10 d, .wrAh1 d, .wrAh10 d, .wrAdow d, .wrAd1 d, .wrAd10 d, .wrU9 d,
        .wrH24 d, .wrLeap d, .wrUc d][a.toNat]? := by
  rw [decode_busWord_write]
  obtain ⟨n, hn, rfl⟩ := exists_ofNat_of_le_twelve ha
  interval_cases n <;> rfl

/-- The commands of the fast path (R249, D14). -/
theorem isFast_cmdByteOf (opt : BitVec 2) (code : BitVec 6) :
    isFast (decode (.cmd (cmdByteOf opt code))) = true ↔
      code.toNat = 0 ∨ code.toNat = 1 ∨ code.toNat = 6 ∨ code.toNat = 7 := by
  rcases code_cases code with h | ⟨n, hn, rfl⟩
  · rw [decode_cmdByteOf_unknown h]
    simp only [isFast, Bool.false_eq_true, false_iff]
    omega
  · rw [decode_cmdByteOf]
    interval_cases n <;> simp [commands, isFast]

/-- Settles O3: each row is the decoder's equation for the fields of its word. -/
theorem opcodeMaps : Obligations.OpcodeMaps := by
  constructor
  · intro bank a d
    exact ⟨decode_busWord_read bank a d, decode_busWord_write bank 0xD#4 d, decode_busWord_write bank 0xE#4 d,
      decode_busWord_write bank 0xF#4 d, fun ha => ⟨decode_timeWrites ha d, decode_bank1Writes ha d, fun hbank =>
        (decode_busWord_write bank a d).trans (decodeWrite_ram hbank ha d)⟩⟩
  · intro opt code
    exact ⟨fun h => decode_cmdByteOf_command h opt, fun h => decode_cmdByteOf_unknown h opt,
      isFast_cmdByteOf opt code⟩

end Sys2Proof.Machine
end

/-! # The bus operations (spec/40_bus_register_ops.md)

Each operation of level 1 is `driveRead`, `wrCell`, `asmPush`, `setMode` or `resetAction` on fixed operands: the facts about
these operations come first in each section, and the statements about the instructions are their uses. -/

section
namespace Sys2Proof.Machine

/-- No byte space is read differently when none is written (R70). -/
theorem BytesAsBefore.of_eq {s t : State} (hin : t.inb.buf = s.inb.buf) (hout : t.outb.buf = s.outb.buf)
    (hcfg : t.cfg = s.cfg) (hmap : t.map = s.map) : BytesAsBefore s t := by
  intro x
  rw [hin, hout, hcfg, hmap]
  exact ⟨rfl, rfl, rfl, rfl⟩

/-! ## The reads (R142 to R144) -/

/-- The channel registers of bank 1 are its addresses below 2 (R37). -/
theorem isChannel_iff (b : BankNo) (a : Nibble) : isChannel b a = true ↔ b = 1#2 ∧ a.toNat ≤ 1 := by
  revert b a
  decide

/-- A cell outside the channel whose write mask is 0 reads 0 (R26, I3 and I4). -/
theorem MasksHold.cell_eq_zero {s : State} (hs : MasksHold s) {b : BankNo} {a : Nibble} (hch : isChannel b a = false)
    (hmask : wmask b a = 0#4) : s.cell b a = 0#4 := by
  have h := hs b a hch
  rwa [hmask, BitVec.not_zero, BitVec.and_allOnes] at h

/-- `TEST` and `RESET` of every bank, and `U9` and `UC` of bank 1, are no channel registers and have mask 0 (R24). -/
theorem wmask_eq_zero {b : BankNo} {a : Nibble} (h : a = 0xE#4 ∨ a = 0xF#4 ∨ b = 1#2 ∧ (a = 0x9#4 ∨ a = 0xC#4)) :
    isChannel b a = false ∧ wmask b a = 0#4 := by
  revert b a
  decide

theorem MasksHold.test_eq_zero {s : State} (hs : MasksHold s) (b : BankNo) : s.cell b 0xE#4 = 0#4 :=
  have ⟨hch, hmask⟩ := wmask_eq_zero (b := b) (.inl rfl)
  hs.cell_eq_zero hch hmask

theorem ModeMirrored.cell_eq {s : State} (hs : ModeMirrored s) (b : BankNo) : s.cell b 0xD#4 = s.cell 0#2 0xD#4 :=
  (hs b).1

/-- Settles O17: the state after is `driveRead` of the cell, whose value the masks and the mirror of `MODE` fix. -/
theorem readRegisterReturnsTheCell : Obligations.ReadRegisterReturnsTheCell := by
  intro bank a d s _
  refine ⟨rfl, driveRead (s.cell bank a) s, rfl, rfl, rfl, .of_eq rfl rfl rfl rfl, fun hmasks hzero => ?_,
    fun hmirror hmode => ?_⟩
  · obtain ⟨hch, hmask⟩ := wmask_eq_zero hzero
    rw [driveRead_driven, hmasks.cell_eq_zero hch hmask]
  · rw [driveRead_driven, hmode, hmirror.cell_eq bank]

/-- With no reply active the channel cells read 0 (R46). -/
theorem ChannelShows.hi_eq_zero {s : State} (hs : ChannelShows s) (h : s.outb.active = false) :
    s.cell 1#2 0x0#4 = 0#4 := by
  unfold ChannelShows at hs
  rw [h] at hs
  exact hs.1

/-- Settles O19, by the two cases of `post_read_msghi`. -/
theorem readMsghiMovesTheCursor : Obligations.ReadMsghiMovesTheCursor := by
  intro d s
  refine ⟨rfl, postReadMsghi (driveRead (s.cell 1#2 0x0#4) s), rfl, ?_⟩
  rw [postReadMsghi_bus, driveRead_driven]
  have hzero : ChannelShows s → s.outb.active = false → some (s.cell 1#2 0x0#4) = some 0#4 := fun hshows hidle =>
    congrArg some (hshows.hi_eq_zero hidle)
  rcases postReadMsghi_cases (driveRead (s.cell 1#2 0x0#4) s) with ⟨hactive, heven, h⟩ | ⟨hno, h⟩ <;> rw [h]
  · exact ⟨rfl, (if_pos ⟨hactive, heven⟩).symm, rfl, .of_eq rfl rfl rfl rfl, hzero⟩
  · exact ⟨rfl, (if_neg hno).symm, rfl, .of_eq rfl rfl rfl rfl, hzero⟩

/-- Every cell but the channel's keeps its value when the reply moves on or ends (R312, R313). -/
theorem cell_setChannel_other {b : BankNo} {a : Nibble} (h : ¬ (b = 1#2 ∧ a.toNat ≤ 1)) (hi lo : Nibble) (s : State) :
    (setChannel hi lo s).cell b a = s.cell b a :=
  (onlyChannel_setChannel hi lo s).cells b a (Bool.eq_false_iff.mpr ((isChannel_iff b a).not.mpr h))

/-- Settles O20, by the three cases of `post_read_msglo`: the reply ends, the next byte is loaded, nothing happens. -/
theorem readMsgloLoadsTheNextByte : Obligations.ReadMsgloLoadsTheNextByte := by
  intro d s
  refine ⟨rfl, postReadMsglo (driveRead (s.cell 1#2 0x1#4) s), rfl, ?_⟩
  rw [postReadMsglo_bus, driveRead_driven]
  refine ⟨rfl, ?_⟩
  have hcases := postReadMsglo_cases (driveRead (s.cell 1#2 0x1#4) s)
  simp only [driveRead_outb] at hcases
  rcases hcases with ⟨hactive, hodd, hlast, h⟩ | ⟨hactive, hodd, hmore, h⟩ | ⟨hno, h⟩ <;> rw [h]
  · rw [if_pos ⟨hactive, hodd⟩, if_pos hlast]
    exact ⟨.of_eq rfl rfl rfl rfl, fun b a hch => cell_setChannel_other hch _ _ _, cell_outFinish _ _ _,
      cell_outFinish _ _ _, rfl⟩
  · rw [if_pos ⟨hactive, hodd⟩, if_neg hmore]
    exact ⟨.of_eq rfl rfl rfl rfl, fun b a hch => cell_setChannel_other hch _ _ _, cell_outLoad _ _ _,
      cell_outLoad _ _ _, rfl⟩
  · rw [if_neg hno]
    exact ⟨.of_eq rfl rfl rfl rfl, fun _ _ _ => rfl, rfl⟩

end Sys2Proof.Machine
end

section
namespace Sys2Proof.Machine

/-! ## The writes of cells (R141, R145 to R171) -/

/-- A host write to a cell stores the masked nibble there and leaves the other cells alone (R24, R141). -/
theorem storesCell_wrCell (b : BankNo) (a d : Nibble) (s : State) :
    StoresCell b a (d &&& wmask b a) s (wrCell b a d s) :=
  ⟨(cell_wrCell b a d s b a).trans (if_pos ⟨rfl, rfl⟩), fun b' a' h => (cell_wrCell b a d s b' a').trans (if_neg h)⟩

/-- Under the mask 0xF the nibble is stored whole. -/
theorem storesCell_wrCell_whole {b : BankNo} {a : Nibble} (hm : wmask b a = 0xF#4) (d : Nibble) (s : State) :
    StoresCell b a d s (wrCell b a d s) := by
  have hwhole : d &&& 0xF#4 = d := BitVec.and_allOnes
  have h := storesCell_wrCell b a d s
  rwa [hm, hwhole] at h

theorem bytesAsBefore_wrCell (b : BankNo) (a d : Nibble) (s : State) : BytesAsBefore s (wrCell b a d s) := by
  rw [wrCell_eq]
  exact .of_eq rfl rfl rfl rfl

/-- In bank 0 or 1 a write sets `time_dirty` and touches no other field than the bank (R141). -/
theorem wrCell_time {b : BankNo} (hb : b = 0#2 ∨ b = 1#2) (a d : Nibble) (s : State) :
    wrCell b a d s = { s with bank := (wrCell b a d s).bank, timeDirty := true } := by
  rw [wrCell_eq]
  simp [hb]

/-- In bank 2 or 3 a write sets `ram_dirty` and touches no other field than the bank (R141). -/
theorem wrCell_ram {b : BankNo} (hb : ¬ (b = 0#2 ∨ b = 1#2)) (a d : Nibble) (s : State) :
    wrCell b a d s = { s with bank := (wrCell b a d s).bank, ramDirty := true } := by
  rw [wrCell_eq]
  simp [hb]

/-- The instruction is the write of cell (`b`, `a`) with nibble `d`: its word and its meaning say so (R101, R141). -/
def WritesCell (i : Instr) (b : BankNo) (a d : Nibble) : Prop :=
  encode i = .bus (busWord b true a d) ∧ ∀ s, exec i s = .next (wrCell b a d s)

/-- A write of the time, alarm and setting registers: the value through the mask, `time_dirty`, and nothing else. -/
theorem WritesCell.stores_masked {i : Instr} {b : BankNo} {a d m : Nibble} (hi : WritesCell i b a d)
    (hb : b = 0#2 ∨ b = 1#2) (hm : wmask b a = m) (s : State) :
    encode i = .bus (b ++ 1#1 ++ a ++ d) ∧
      ∃ t, exec i s = .next t ∧ StoresCell b a (d &&& m) s t ∧ t = { s with bank := t.bank, timeDirty := true } ∧
        BytesAsBefore s t :=
  ⟨hi.1, wrCell b a d s, hi.2 s, hm ▸ storesCell_wrCell b a d s, wrCell_time hb a d s, bytesAsBefore_wrCell b a d s⟩

/-- The same for a register whose mask is 0xF. -/
theorem WritesCell.stores_whole {i : Instr} {b : BankNo} {a d : Nibble} (hi : WritesCell i b a d)
    (hb : b = 0#2 ∨ b = 1#2) (hm : wmask b a = 0xF#4) (s : State) :
    encode i = .bus (b ++ 1#1 ++ a ++ d) ∧
      ∃ t, exec i s = .next t ∧ StoresCell b a d s t ∧ t.timeDirty = true ∧
        t = { s with bank := t.bank, timeDirty := true } ∧ BytesAsBefore s t :=
  have hframe := wrCell_time hb a d s
  ⟨hi.1, wrCell b a d s, hi.2 s, storesCell_wrCell_whole hm d s, congrArg State.timeDirty hframe, hframe,
    bytesAsBefore_wrCell b a d s⟩

/-! ### A bank without a date (R201, R203) -/

theorem bcd2_eq_some_iff {t u : Nibble} {n : Nat} :
    bcd2 t u = some n ↔ (t.toNat ≤ 9 ∧ u.toNat ≤ 9) ∧ 10 * t.toNat + u.toNat = n := by
  simp [bcd2]

theorem bcd2_units_le {t u : Nibble} {n : Nat} (h : bcd2 t u = some n) : u.toNat ≤ 9 := (bcd2_eq_some_iff.mp h).1.2

theorem bcd2_value {t u : Nibble} {n : Nat} (h : bcd2 t u = some n) : 10 * t.toNat + u.toNat = n :=
  (bcd2_eq_some_iff.mp h).2

/-- The pairs of digit cells of bank 0 spell the date (R203). -/
structure SpellsDate (s : State) (f : DateTime) : Prop where
  sec : bcd2 (s.cell 0#2 0x1#4) (s.cell 0#2 0x0#4) = some f.sec
  min : bcd2 (s.cell 0#2 0x3#4) (s.cell 0#2 0x2#4) = some f.min
  hour : bcd2 (s.cell 0#2 0x5#4) (s.cell 0#2 0x4#4) = some f.hour
  day : bcd2 (s.cell 0#2 0x8#4) (s.cell 0#2 0x7#4) = some f.day
  month : bcd2 (s.cell 0#2 0xA#4) (s.cell 0#2 0x9#4) = some f.month
  year : bcd2 (s.cell 0#2 0xC#4) (s.cell 0#2 0xB#4) = some f.year

/-- The date that a bank holds is the one its digits spell (R203). -/
theorem spellsDate_of_emuFields {s : State} {f : DateTime} (h : emuFields s = some f) : SpellsDate s f := by
  simp only [emuFields, Option.bind_eq_bind, Option.bind_eq_some_iff] at h
  obtain ⟨_, hsec, _, hmin, _, hhour, _, hday, _, hmonth, _, hyear, h⟩ := h
  split at h
  · cases h
    exact ⟨hsec, hmin, hhour, hday, hmonth, hyear⟩
  · cases h

/-- The addresses of the units digits of bank 0 (R203). -/
def unitsCells : List Nibble := [0x0#4, 0x2#4, 0x4#4, 0x7#4, 0x9#4, 0xB#4]

theorem SpellsDate.units_le {s : State} {f : DateTime} (h : SpellsDate s f) :
    ∀ a ∈ unitsCells, (s.cell 0#2 a).toNat ≤ 9 := by
  simp only [unitsCells, List.forall_mem_cons]
  exact ⟨bcd2_units_le h.sec, bcd2_units_le h.min, bcd2_units_le h.hour, bcd2_units_le h.day, bcd2_units_le h.month,
    bcd2_units_le h.year, List.forall_mem_nil _⟩

theorem emuFields_none_of {s : State} (h : ∀ f, SpellsDate s f → f.legal = true → False) : emuFields s = none :=
  Option.eq_none_iff_forall_ne_some.mpr fun f hf => h f (spellsDate_of_emuFields hf) (emuFields_legal hf)

/-- A units digit above 9 spells no date (R201, D28). -/
theorem emuFields_none_of_units {s : State} {a : Nibble} (ha : a ∈ unitsCells) (h : 9 < (s.cell 0#2 a).toNat) :
    emuFields s = none :=
  emuFields_none_of fun _ hf _ => absurd (hf.units_le a ha) (Nat.not_le.mpr h)

/-- An hour above 23 is in no legal date (R203). -/
theorem emuFields_none_of_hour {s : State} (h : 23 < 10 * (s.cell 0#2 0x5#4).toNat + (s.cell 0#2 0x4#4).toNat) :
    emuFields s = none :=
  emuFields_none_of fun f hf hlegal => by
    obtain ⟨-, -, hhour, -⟩ := f.legal_iff.mp hlegal
    have := bcd2_value hf.hour
    omega

/-- Day 00 is in no legal date (R203). -/
theorem emuFields_none_of_day {s : State} (h : 10 * (s.cell 0#2 0x8#4).toNat + (s.cell 0#2 0x7#4).toNat = 0) :
    emuFields s = none :=
  emuFields_none_of fun f hf hlegal => by
    obtain ⟨-, -, -, -, -, -, -, hday, -⟩ := f.legal_iff.mp hlegal
    have := bcd2_value hf.day
    omega

/-- Month 00 and a month above 12 are in no legal date (R203). -/
theorem emuFields_none_of_month {s : State} {n : Nat}
    (h : 10 * (s.cell 0#2 0xA#4).toNat + (s.cell 0#2 0x9#4).toNat = n) (hn : n = 0 ∨ 12 < n) : emuFields s = none :=
  emuFields_none_of fun f hf hlegal => by
    obtain ⟨-, -, -, -, hlow, hhigh, -⟩ := f.legal_iff.mp hlegal
    have := bcd2_value hf.month
    omega

/-! ### The statements -/

/-- Settles O22: the six rows are whole writes of units cells, and the illegal digit stands in the cell written. -/
theorem fullNibbleTimeWrites : Obligations.FullNibbleTimeWrites := by
  intro d s e he
  obtain ⟨hwrites, hmask, hunits⟩ : WritesCell e.1 0#2 e.2 d ∧ wmask 0#2 e.2 = 0xF#4 ∧ e.2 ∈ unitsCells := by
    fin_cases he <;> exact ⟨⟨rfl, fun _ => rfl⟩, rfl, by simp [unitsCells]⟩
  obtain ⟨hword, t, hexec, hstores, hdirty, hframe, hbytes⟩ := hwrites.stores_whole (.inl rfl) hmask s
  obtain ⟨hcell, hothers⟩ := hstores
  refine ⟨hword, t, hexec, ⟨hcell, hothers⟩, hdirty, hframe, hbytes, fun hd => ?_, fun ha h => ?_, fun ha h => ?_,
    fun ha h => ?_, fun ha h => ?_⟩
  · exact emuFields_none_of_units hunits (hcell ▸ hd)
  all_goals rw [ha] at hcell hothers
  · exact emuFields_none_of_hour (by rwa [hcell, hothers 0#2 0x5#4 (by decide)])
  · exact emuFields_none_of_day (by rwa [hcell, hothers 0#2 0x8#4 (by decide)])
  · exact emuFields_none_of_month (by rw [hcell, hothers 0#2 0xA#4 (by decide)]) (.inl h)
  · exact emuFields_none_of_month (by rw [hcell, hothers 0#2 0xA#4 (by decide)]) (.inr h)

/-- Settles O23: each row is a write of its cell of bank 0, and its last entry is that cell's mask. -/
theorem maskedTimeWrites : Obligations.MaskedTimeWrites := by
  intro d s e he
  obtain ⟨hwrites, hmask⟩ : WritesCell e.1 0#2 e.2.1 d ∧ wmask 0#2 e.2.1 = e.2.2 := by
    fin_cases he <;> exact ⟨⟨rfl, fun _ => rfl⟩, rfl⟩
  exact hwrites.stores_masked (.inl rfl) hmask s

/-- Settles O24: each row is a write of its cell of bank 1, whose mask is 0xF. -/
theorem fullNibbleAlarmWrites : Obligations.FullNibbleAlarmWrites := by
  intro d s e he
  obtain ⟨hwrites, hmask⟩ : WritesCell e.1 1#2 e.2 d ∧ wmask 1#2 e.2 = 0xF#4 := by
    fin_cases he <;> exact ⟨⟨rfl, fun _ => rfl⟩, rfl⟩
  exact hwrites.stores_whole (.inr rfl) hmask s

/-- Settles O25: each row is a write of its cell of bank 1, and its last entry is that cell's mask. -/
theorem maskedAlarmAndSettingWrites : Obligations.MaskedAlarmAndSettingWrites := by
  intro d s e he
  obtain ⟨hwrites, hmask⟩ : WritesCell e.1 1#2 e.2.1 d ∧ wmask 1#2 e.2.1 = e.2.2 := by
    fin_cases he <;> exact ⟨⟨rfl, fun _ => rfl⟩, rfl⟩
  exact hwrites.stores_masked (.inr rfl) hmask s

/-- The RAM cells of banks 2 and 3 have the mask 0xF (R24). -/
theorem wmask_ram {b : BankNo} {a : Nibble} (hb : 2 ≤ b.toNat) (ha : a.toNat ≤ 0xC) : wmask b a = 0xF#4 := by
  revert b a
  decide

/-- Settles O26: the write of a cell of bank 2 or 3, whose mask is 0xF. -/
theorem ramWrites : Obligations.RamWrites := by
  intro bank a d s hbank ha
  have hram : ¬ (bank = 0#2 ∨ bank = 1#2) := by bv_omega
  have hframe := wrCell_ram hram a d s
  exact ⟨rfl, wrCell bank a d s, rfl, storesCell_wrCell_whole (wmask_ram hbank ha) d s,
    congrArg State.ramDirty hframe, hframe, bytesAsBefore_wrCell bank a d s⟩

end Sys2Proof.Machine
end

section
namespace Sys2Proof.Machine

/-! ## The writes of the channel and the control registers (R172, R173, R176 to R180) -/

/-- While a frame is queued a byte is dropped (R243, D16). -/
theorem asmPush_queued {s : State} (h : s.inb.state = .queuedSlow) (b : Byte) : asmPush b s = s := by
  rcases asmPush_cases b s with ⟨-, hdrop⟩ | ⟨hno, -⟩ | ⟨hno, -⟩
  · exact hdrop
  · exact absurd h hno
  · exact absurd h hno

/-- The byte that the two nibbles make up is their weighted sum (R217). -/
theorem byteOf_eq_ofNat (h l : Nibble) : byteOf h l = BitVec.ofNat 8 (16 * h.toNat + l.toNat) := by
  rw [← byteOf_toNat, BitVec.ofNat_toNat, BitVec.setWidth_eq]

/-- Settles O27: WR_MSGLO pushes `in_hi ∥ d` with the latch cleared, and a queued frame makes the push do nothing. -/
theorem channelWritesFeedTheAssembler : Obligations.ChannelWritesFeedTheAssembler := by
  intro d s
  have hpush : exec (.wrMsglo d) s =
      .next (asmPush (BitVec.ofNat 8 (16 * s.inb.hi.toNat + d.toNat)) { s with inb := { s.inb with hi := 0#4 } }) := by
    rw [← byteOf_eq_ofNat]
    rfl
  refine ⟨⟨rfl, rfl⟩, rfl, hpush, fun hqueued => ?_⟩
  rw [hpush, asmPush_queued]
  exact hqueued

theorem modeBank_toNat (d : Nibble) : (modeBank d).toNat = d.toNat % 4 := BitVec.extractLsb'_toNat 0 2 d

theorem modeTimerEn_eq (d : Nibble) : modeTimerEn d = decide (8 ≤ d.toNat) := by
  revert d
  decide

/-- Settles O30: all of it is `wr_mode`, whose cells and two mode flags have their laws. -/
theorem modeWriteSelectsTheBank : Obligations.ModeWriteSelectsTheBank := fun _ d s =>
  ⟨rfl, setMode d s, rfl, cell_setMode d s, modeBank_toNat d, modeTimerEn_eq d, rfl, .of_eq rfl rfl rfl rfl⟩

/-- Settles O31: the write leaves the state as it is, and the mask of `TEST` is 0. -/
theorem testWriteDoesNothing : Obligations.TestWriteDoesNothing := fun _ _ s =>
  ⟨rfl, rfl, fun hmasks b _ => ⟨driveRead (s.cell b 0xE#4) s, rfl, congrArg some (hmasks.test_eq_zero b)⟩⟩

theorem getLsbD_zero_eq (d : Nibble) : d.getLsbD 0 = decide (d.toNat % 2 = 1) := by
  revert d
  decide

theorem getLsbD_one_eq (d : Nibble) : d.getLsbD 1 = decide (d.toNat / 2 % 2 = 1) := by
  revert d
  decide

/-- `wr_reset` by its two bits: the alarm first, then the protocol (R178). -/
theorem resetAction_eq (d : Nibble) (s : State) :
    resetAction d s =
      (let t := if d.toNat % 2 = 1 then alarmClear s else s
       if d.toNat / 2 % 2 = 1 then protoReset t else t) := by
  simp only [resetAction, getLsbD_zero_eq, getLsbD_one_eq, decide_eq_true_eq]

/-- Of `proto_reset`'s cells the addresses below 2 of bank 1 read 0, and no other changes (R180). -/
theorem cell_protoReset_channel (s : State) (b : BankNo) (a : Nibble) :
    (protoReset s).cell b a = if b = 1#2 ∧ a.toNat ≤ 1 then 0#4 else s.cell b a := by
  have hchannel : (b = msgBank ∧ a = msgLoAddr) ∨ (b = msgBank ∧ a = msgHiAddr) ↔ b = 1#2 ∧ a.toNat ≤ 1 := by
    revert b a
    decide
  rw [cell_protoReset, ← ite_or]
  exact if_congr hchannel rfl rfl

/-- The alarm cells are the addresses 2 to 8 of bank 1, cleared when the bit asks for it (R179). -/
theorem cell_alarmClear_if (p : Prop) [Decidable p] (s : State) (b : BankNo) (a : Nibble) :
    (if p then alarmClear s else s).cell b a =
      if b = 1#2 ∧ p ∧ 2 ≤ a.toNat ∧ a.toNat ≤ 8 then 0#4 else s.cell b a := by
  by_cases hp : p
  · simp only [hp, if_true, true_and]
    exact cell_alarmClear s b a
  · simp only [hp, if_false, false_and, and_false]

/-- The channel cells are the addresses below 2 of bank 1, cleared when the bit asks for it (R180). -/
theorem cell_protoReset_if (p : Prop) [Decidable p] (s : State) (b : BankNo) (a : Nibble) :
    (if p then protoReset s else s).cell b a = if b = 1#2 ∧ p ∧ a.toNat ≤ 1 then 0#4 else s.cell b a := by
  by_cases hp : p
  · simp only [hp, if_true, true_and]
    exact cell_protoReset_channel s b a
  · simp only [hp, if_false, false_and, and_false]

/-- The cells after `wr_reset` (R178 to R180): the two actions clear different cells. -/
theorem cell_resetAction (d : Nibble) (s : State) (b : BankNo) (a : Nibble) :
    (resetAction d s).cell b a =
      if b = 1#2 ∧ d.toNat % 2 = 1 ∧ 2 ≤ a.toNat ∧ a.toNat ≤ 8 then 0#4
      else if b = 1#2 ∧ d.toNat / 2 % 2 = 1 ∧ a.toNat ≤ 1 then 0#4
      else s.cell b a := by
  rw [resetAction_eq, cell_protoReset_if, cell_alarmClear_if]
  split_ifs <;> rfl

theorem resetAction_timeDirty (d : Nibble) (s : State) :
    (resetAction d s).timeDirty = (s.timeDirty || decide (d.toNat % 2 = 1)) := by
  rw [resetAction_eq]
  by_cases halarm : d.toNat % 2 = 1 <;> by_cases hproto : d.toNat / 2 % 2 = 1 <;> simp [halarm, hproto]

/-- The protocol state after `wr_reset`: bit 1 alone decides (R180). -/
theorem resetAction_protocol (d : Nibble) (s : State) :
    if d.toNat / 2 % 2 = 1 then
      (resetAction d s).inb = { s.inb with hi := 0#4, pos := 0, state := .idle } ∧
        (resetAction d s).outb = { s.outb with active := false, pos := 0, len := 0 }
    else (resetAction d s).inb = s.inb ∧ (resetAction d s).outb = s.outb := by
  rw [resetAction_eq]
  by_cases halarm : d.toNat % 2 = 1 <;> by_cases hproto : d.toNat / 2 % 2 = 1 <;> simp [halarm, hproto]

/-- The fields that `wr_reset` can change (R178). -/
theorem resetAction_frame (d : Nibble) (s : State) :
    resetAction d s =
      { s with
        bank := (resetAction d s).bank, timeDirty := (resetAction d s).timeDirty
        inb := (resetAction d s).inb, outb := (resetAction d s).outb } := by
  rw [resetAction_eq]
  split_ifs <;> rfl

theorem bytesAsBefore_resetAction (d : Nibble) (s : State) : BytesAsBefore s (resetAction d s) := by
  rw [resetAction_eq]
  split_ifs <;> exact .of_eq rfl rfl rfl rfl

/-- Settles O32, from the laws of `wr_reset`: its cells, its flag, the protocol state, the frame. -/
theorem resetWriteRunsItsActions : Obligations.ResetWriteRunsItsActions := fun _ d s =>
  ⟨rfl, resetAction d s, rfl, cell_resetAction d s, resetAction_timeDirty d s, resetAction_protocol d s,
    resetAction_frame d s, bytesAsBefore_resetAction d s⟩

/-! ## Words written out (R143, R145, R171, R178, R273, R290) -/

/-- Settles O4: each word is the encoding of its well-formed instruction, so decoding gives the instruction back. -/
theorem writtenWordsDecode : Obligations.WrittenWordsDecode :=
  have hdecode := encodeThenDecodeEveryInstruction
  ⟨hdecode (.wrS1 0x5#4) rfl, hdecode (.rdMsghi 0x0#4) rfl, hdecode (.wrRam 3#2 0xC#4 0xA#4) rfl,
    hdecode (.wrReset 2#2 0x3#4) rfl, hdecode (.cmdNop 1#2) rfl, hdecode (.cmdUnknown 0#2 0x3F#6) rfl⟩

end Sys2Proof.Machine
end

/-! # The clock, the synchronizer and the backup (spec/41_clock_sync.md) -/

section
namespace Sys2Proof.Machine

/-! ## The step of an agent on the MCU -/

/-- A step of an agent on the MCU that is next on the list is taken when the MCU runs (R414). -/
theorem step_onMcu {e : Event} {f : State → State} {s : State} {rest : List Event} (he : s.events = e :: rest)
    (hf : runEvent e { s with events := rest } = .next (onMcu f { s with events := rest }))
    (hrun : s.handlersEnabled = true) : step s = .next (f { s with events := rest }) := by
  rw [step, nextStep_cons he, hf, onMcu, if_pos hrun]

/-! ## Lists of masked stores (R24) -/

/-- Of a list of masked stores at distinct cells, each cell holds its own value through its mask. -/
theorem cell_foldl_storeMasked_mem {α : Type} (f : α → BankNo × Nibble) (g : α → Nibble) {l : List α}
    (hdistinct : (l.map f).Nodup) {x : α} (hx : x ∈ l) (s : State) :
    (l.foldl (fun t x => storeMasked (f x).1 (f x).2 (g x) t) s).cell (f x).1 (f x).2 =
      g x &&& wmask (f x).1 (f x).2 := by
  induction l generalizing s with
  | nil => cases hx
  | cons y l ih =>
    obtain ⟨hy, hdistinct⟩ := List.nodup_cons.mp hdistinct
    rw [List.foldl_cons]
    rcases List.mem_cons.mp hx with rfl | hx
    · rw [cell_foldl_storeMasked_other f g l _ _ _ fun z hz heq => hy (List.mem_map.mpr ⟨z, hz, heq⟩),
        cell_storeMasked, if_pos ⟨rfl, rfl⟩]
    · exact ih hdistinct hx _

/-- A nibble without a bit outside the mask passes the mask whole. -/
theorem and_mask_of_masked {v m : Nibble} (h : v &&& ~~~m = 0#4) : v &&& m = v := by
  revert v m
  decide

/-- Every mask of R24 is a block of low bits, so a value up to the mask passes it whole. -/
theorem and_wmask_of_le {b : BankNo} {a v : Nibble} (h : v ≤ wmask b a) : v &&& wmask b a = v := by
  have hmask : wmask b a ∈ [0x0#4, 0x1#4, 0x3#4, 0x7#4, 0xF#4] := by
    clear h
    revert b a
    decide
  have hpass : ∀ m ∈ [0x0#4, 0x1#4, 0x3#4, 0x7#4, 0xF#4], ∀ v ≤ m, v &&& m = v := by decide
  exact hpass _ hmask v h

end Sys2Proof.Machine
end

section
namespace Sys2Proof.Machine

/-! ## The register bank's date (R201 to R203) -/

/-- With `EPOCH` 0 the leap counter is the year modulo 4 (R8, R36, R217). -/
theorem leapCounter_eq (year : Nat) : leapCounter year = year % 4 := by
  unfold leapCounter epoch
  omega

/-- The days of a month as a table (R202). -/
theorem dim_eq_getD {month : Nat} (hlow : 1 ≤ month) (hhigh : month ≤ 12) (year : Nat) :
    dim month year =
      [31, if year % 4 = 0 then 29 else 28, 31, 30, 31, 30, 31, 31, 30, 31, 30, 31].getD (month - 1) 0 := by
  interval_cases month
  · rfl
  · rw [← leapCounter_eq]
    rfl
  all_goals rfl

theorem dim_le (month year : Nat) : dim month year ≤ 31 := by
  unfold dim
  split
  · split <;> decide
  all_goals decide

/-- The bank holds the date that its digits and its weekday spell, when that date is legal (R203). -/
theorem emuFields_eq_some_iff {s : State} {f : DateTime} :
    emuFields s = some f ↔ SpellsDate s f ∧ f.wday = (s.cell 0#2 0x6#4).toNat ∧ f.legal = true := by
  constructor
  · intro h
    refine ⟨spellsDate_of_emuFields h, ?_, emuFields_legal h⟩
    simp only [emuFields, Option.bind_eq_bind, Option.bind_eq_some_iff] at h
    obtain ⟨_, -, _, -, _, -, _, -, _, -, _, -, h⟩ := h
    split at h <;> cases h
    rfl
  · rintro ⟨hspells, hwday, hlegal⟩
    simp only [emuFields, hspells.sec, hspells.min, hspells.hour, hspells.day, hspells.month, hspells.year, ← hwday]
    exact if_pos hlegal

theorem spellsDate_iff {s : State} {f : DateTime} :
    SpellsDate s f ↔ bcd2 (s.cell 0#2 0x1#4) (s.cell 0#2 0x0#4) = some f.sec ∧
      bcd2 (s.cell 0#2 0x3#4) (s.cell 0#2 0x2#4) = some f.min ∧
      bcd2 (s.cell 0#2 0x5#4) (s.cell 0#2 0x4#4) = some f.hour ∧
      bcd2 (s.cell 0#2 0x8#4) (s.cell 0#2 0x7#4) = some f.day ∧
      bcd2 (s.cell 0#2 0xA#4) (s.cell 0#2 0x9#4) = some f.month ∧
      bcd2 (s.cell 0#2 0xC#4) (s.cell 0#2 0xB#4) = some f.year :=
  ⟨fun ⟨hsec, hmin, hhour, hday, hmonth, hyear⟩ => ⟨hsec, hmin, hhour, hday, hmonth, hyear⟩,
    fun ⟨hsec, hmin, hhour, hday, hmonth, hyear⟩ => ⟨hsec, hmin, hhour, hday, hmonth, hyear⟩⟩

/-- Settles O48: the digits spell the fields, and the fields are legal; a range of a field bounds its tens digit. -/
theorem bankHoldsADateExactlyWhenLegal : Obligations.BankHoldsADateExactlyWhenLegal := by
  intro s f
  simp only [emuFields_eq_some_iff, spellsDate_iff, bcd2_eq_some_iff, DateTime.legal_iff]
  constructor
  · rintro ⟨⟨hsec, hmin, hhour, hday, hmonth, hyear⟩, hwday, hlegal⟩
    obtain ⟨hsec', hmin', hhour', hwday', hlow, hhigh, -, hfirst, hlast⟩ := hlegal
    rw [dim_eq_getD hlow hhigh] at hlast
    omega
  · rintro ⟨hsec, hmin, hhour, hwday, hmonth, hyear, hunits, hday, hfirst, hlast⟩
    rw [← dim_eq_getD (by omega) (by omega)] at hlast
    have := dim_le f.month f.year
    omega

/-! ## The hardware clock's tick (R213) -/

/-- The seconds of the day at a time. -/
def DateTime.daySeconds (t : DateTime) : Nat := (t.hour * 60 + t.min) * 60 + t.sec

/-- One second later it is the same day's next second, or the day was at its last second and the next day begins. -/
theorem nextSecond_cases {t : DateTime} (h : t.legal = true) :
    (t.daySeconds + 1 < 86400 ∧ (nextSecond t).daySeconds = t.daySeconds + 1 ∧ (nextSecond t).wday = t.wday ∧
        (nextSecond t).day = t.day ∧ (nextSecond t).month = t.month ∧ (nextSecond t).year = t.year) ∨
      (t.daySeconds + 1 = 86400 ∧ nextSecond t = nextDay { t with sec := 0, min := 0, hour := 0 }) := by
  obtain ⟨hsec, hmin, hhour, -⟩ := t.legal_iff.mp h
  unfold nextSecond DateTime.daySeconds
  split_ifs with h1 h2 h3
  · exact .inl ⟨by omega, rfl, rfl, rfl, rfl, rfl⟩
  · exact .inl ⟨by omega, by dsimp only; omega, rfl, rfl, rfl, rfl⟩
  · exact .inl ⟨by omega, by dsimp only; omega, rfl, rfl, rfl, rfl⟩
  · exact .inr ⟨by omega, rfl⟩

/-- The next day: the time of day stays, the weekday and the calendar move on by one day. -/
theorem nextDay_spec {t : DateTime} (hyear : t.year ≤ 99) :
    (nextDay t).daySeconds = t.daySeconds ∧ (nextDay t).wday = (t.wday + 1) % 7 ∧
      (if t.day < dim t.month t.year then
        (nextDay t).day = t.day + 1 ∧ (nextDay t).month = t.month ∧ (nextDay t).year = t.year
       else if t.month < 12 then
        (nextDay t).day = 1 ∧ (nextDay t).month = t.month + 1 ∧ (nextDay t).year = t.year
       else (nextDay t).day = 1 ∧ (nextDay t).month = 1 ∧ (nextDay t).year = (t.year + 1) % 100) := by
  unfold nextDay
  split_ifs with hday hmonth hcentury
  · exact ⟨rfl, rfl, rfl, rfl, rfl⟩
  · exact ⟨rfl, rfl, rfl, rfl, rfl⟩
  · exact ⟨rfl, rfl, rfl, rfl, (Nat.mod_eq_of_lt (Nat.succ_lt_succ hcentury)).symm⟩
  · have hlast : t.year = 99 := by omega
    exact ⟨rfl, rfl, rfl, rfl, by rw [hlast]⟩

/-- Settles O53: within a day the date stays, at midnight it is the next day's. -/
theorem hardwareClockTicks : Obligations.HardwareClockTicks := by
  intro s rest hevents hlegal
  refine ⟨hwTick { s with events := rest }, nextStep_cons hevents, rfl, nextSecond_legal hlegal, ?_⟩
  rcases nextSecond_cases hlegal with ⟨hlt, hsecs, hdate⟩ | ⟨hmidnight, hnext⟩
  · exact ⟨hsecs.trans (Nat.mod_eq_of_lt hlt).symm, (if_pos hlt).symm ▸ hdate⟩
  · obtain ⟨-, -, -, -, -, -, hyear, -⟩ := (s.hw.time).legal_iff.mp hlegal
    obtain ⟨hsecs, hwday, hdate⟩ := nextDay_spec (t := { s.hw.time with sec := 0, min := 0, hour := 0 }) hyear
    rw [← hnext] at hsecs hwday hdate
    have hzero : (s.hw.time.daySeconds + 1) % 86400 = 0 := by rw [hmidnight]
    exact ⟨hsecs.trans hzero.symm, (if_neg (Nat.not_lt.mpr hmidnight.ge)).symm ▸ ⟨hwday, hdate⟩⟩

end Sys2Proof.Machine
end

section
namespace Sys2Proof.Machine

/-! ## The digits of the hardware clock (R210) -/

/-- The cell that a digit of the clock goes to. -/
def digitCell (c : BankNo × Nibble × Nat) : BankNo × Nibble := (c.1, c.2.1)

theorem digitCells_map_digitCell (t : DateTime) : (digitCells t).map digitCell =
    [(0#2, 0x0#4), (0#2, 0x1#4), (0#2, 0x2#4), (0#2, 0x3#4), (0#2, 0x4#4), (0#2, 0x5#4), (0#2, 0x6#4), (0#2, 0x7#4),
      (0#2, 0x8#4), (0#2, 0x9#4), (0#2, 0xA#4), (0#2, 0xB#4), (0#2, 0xC#4), (1#2, 0xB#4)] := rfl

theorem nodup_digitCells (t : DateTime) : ((digitCells t).map digitCell).Nodup := by
  rw [digitCells_map_digitCell]
  decide

/-- The fourteen cells: addresses 0x0 to 0xC of bank 0, and `LEAP` (R210). -/
theorem mem_digitCells_iff (t : DateTime) (b : BankNo) (a : Nibble) :
    (b, a) ∈ (digitCells t).map digitCell ↔ b = 0#2 ∧ a.toNat ≤ 0xC ∨ b = 1#2 ∧ a = 0xB#4 := by
  rw [digitCells_map_digitCell]
  revert b a
  decide

/-- Every digit of a legal date fits the mask of its cell (R210). -/
theorem digitCells_fit {t : DateTime} (h : t.legal = true) : ∀ c ∈ digitCells t, c.2.2 ≤ (wmask c.1 c.2.1).toNat := by
  obtain ⟨hsec, hmin, hhour, hwday, -, hmonth, hyear, -, hday⟩ := t.legal_iff.mp h
  have := hday.trans (dim_le t.month t.year)
  simp only [digitCells, List.forall_mem_cons, List.not_mem_nil, false_imp_iff, implies_true, and_true, leapCounter_eq]
  show t.sec % 10 ≤ 0xF ∧ t.sec / 10 ≤ 0x7 ∧ t.min % 10 ≤ 0xF ∧ t.min / 10 ≤ 0x7 ∧ t.hour % 10 ≤ 0xF ∧
    t.hour / 10 ≤ 0x3 ∧ t.wday ≤ 0x7 ∧ t.day % 10 ≤ 0xF ∧ t.day / 10 ≤ 0x3 ∧ t.month % 10 ≤ 0xF ∧ t.month / 10 ≤ 0x1 ∧
    t.year % 10 ≤ 0xF ∧ t.year / 10 ≤ 0xF ∧ t.year % 4 ≤ 0x3
  omega

/-- A cell outside the fourteen keeps its value. -/
theorem cell_digitsOfHw_other {s : State} {b : BankNo} {a : Nibble}
    (h : ¬ (b = 0#2 ∧ a.toNat ≤ 0xC ∨ b = 1#2 ∧ a = 0xB#4)) : (digitsOfHw s).cell b a = s.cell b a :=
  cell_foldl_storeMasked_other digitCell (fun c => BitVec.ofNat 4 c.2.2) _ s b a fun c hc heq =>
    h ((mem_digitCells_iff s.hw.time b a).mp (List.mem_map.mpr ⟨c, hc, heq⟩))

/-- Each of the fourteen cells takes the digit of a legal date whole. -/
theorem cell_digitsOfHw_mem {s : State} (h : s.hw.time.legal = true) {c : BankNo × Nibble × Nat}
    (hc : c ∈ digitCells s.hw.time) : ((digitsOfHw s).cell c.1 c.2.1).toNat = c.2.2 := by
  have hfits := digitCells_fit h c hc
  have hdigit : (BitVec.ofNat 4 c.2.2).toNat = c.2.2 :=
    Nat.mod_eq_of_lt (hfits.trans_lt (wmask c.1 c.2.1).isLt)
  have hcell : (digitsOfHw s).cell c.1 c.2.1 = _ :=
    cell_foldl_storeMasked_mem digitCell (fun c => BitVec.ofNat 4 c.2.2) (nodup_digitCells _) hc s
  rw [hcell]
  simp only [digitCell]
  rw [and_wmask_of_le (BitVec.le_def.mpr (hdigit.trans_le hfits)), hdigit]

/-- Settles O51: the first thirteen entries of `digitCells` are bank 0's, the last is `LEAP`. -/
theorem digitsOfTheHardwareClock : Obligations.DigitsOfTheHardwareClock := by
  intro s hlegal h u
  refine ⟨digitsOfHw_eq s, ?_, ?_, fun b a hbank hleap => cell_digitsOfHw_other (not_or.mpr ⟨hbank, hleap⟩)⟩
  · show ((digitCells h).take 13).map (fun c => (u.cell c.1 c.2.1).toNat) = ((digitCells h).take 13).map (·.2.2)
    exact List.map_congr_left fun c hc => cell_digitsOfHw_mem hlegal (List.mem_of_mem_take hc)
  · rw [← leapCounter_eq]
    exact cell_digitsOfHw_mem (c := (1#2, 0xB#4, leapCounter h.year)) hlegal (by simp [digitCells, h])

/-! ## WAKEUP (R209, R211) -/

/-- Settles O52, by the three cases of WAKEUP. -/
theorem wakeupRefreshesTheDigits : Obligations.WakeupRefreshesTheDigits := by
  intro s rest hevents hrun
  rw [step_onMcu (f := wakeup) hevents rfl hrun]
  rcases wakeup_cases { s with events := rest } with ⟨hold, h⟩ | ⟨hnew, htimer, hclean, h⟩ | ⟨hnew, hgate, h⟩ <;> rw [h]
  · exact (if_pos hold).symm
  · rw [if_neg hnew, if_pos ⟨htimer, hclean⟩]
  · rw [if_neg hnew, if_neg hgate]

end Sys2Proof.Machine
end

section
namespace Sys2Proof.Machine

/-! ## The synchronizer's step (R205 to R207) -/

theorem syncEnabled_iff (s : State) :
    syncEnabled s = true ↔ (s.timeDirty = true ∨ s.ramDirty = true) ∧ s.timerEnabled = true := by
  simp only [syncEnabled, Bool.and_eq_true, Bool.or_eq_true]

/-- The commit writes the clock and the second that WAKEUP has seen, and nothing else (R206). -/
theorem syncCommit_eq (s : State) :
    syncCommit s = { s with hw := (syncCommit s).hw, lastSec := (syncCommit s).lastSec } := by
  rcases syncCommit_cases s with ⟨f, -, -, h⟩ | ⟨-, h⟩ <;> rw [h]
  rfl

/-- The commit takes no part in the backup. -/
theorem nvStore_syncCommit_nv (s : State) : (nvStore (syncCommit s)).nv = (nvStore s).nv := by
  rw [syncCommit_eq]
  rfl

theorem syncCommit_of_clean {s : State} (h : s.timeDirty = false) : syncCommit s = s := by
  rw [syncCommit, h]
  rfl

theorem syncCommit_of_none {s : State} (h : emuFields s = none) : syncCommit s = s := by
  rw [syncCommit, h]
  exact ite_self s

theorem syncCommit_of_some {s : State} {f : DateTime} (hdirty : s.timeDirty = true) (h : emuFields s = some f) :
    syncCommit s = hwCommit f s := by
  rw [syncCommit, h, if_pos hdirty]

theorem syncToHw_of_enabled {s : State} (h : syncEnabled s = true) : syncToHw s = clearDirty (nvStore (syncCommit s)) :=
  if_pos h

theorem syncToHw_of_disabled {s : State} (h : syncEnabled s = false) : syncToHw s = s :=
  if_neg (Bool.eq_false_iff.mp h)

/-- Settles O49: the step is the commit, the backup and the clearing of the flags, or nothing. -/
theorem syncCommitsOrDiscards : Obligations.SyncCommitsOrDiscards := by
  intro s rest hevents hrun
  rw [step_onMcu (f := syncToHw) hevents rfl hrun]
  split_ifs with hsync
  · rw [syncToHw_of_enabled (by exact (syncEnabled_iff s).mpr hsync)]
    refine ⟨_, rfl, nvStore_syncCommit_nv _, ?_, fun hclean => ?_, fun _ hnone => ?_, fun hdirty f hf => ?_⟩
    · rw [syncCommit_eq]
      rfl
    · rw [syncCommit_of_clean (by exact hclean)]
      exact ⟨rfl, rfl⟩
    · rw [syncCommit_of_none (by exact hnone)]
      exact ⟨rfl, rfl⟩
    · rw [syncCommit_of_some (by exact hdirty) (by exact hf)]
      exact ⟨rfl, rfl, rfl⟩
  · rw [syncToHw_of_disabled (by exact Bool.eq_false_iff.mpr ((syncEnabled_iff s).not.mpr hsync))]

/-! ## The backup (R214 to R216) -/

/-- Putting a nibble in front moves the others up by four bits. -/
theorem getLsbD_packNibbles_cons (n : Nibble) (l : List Nibble) {k : Nat} (hk : k < 32) :
    (packNibbles (n :: l)).getLsbD k = if k < 4 then n.getLsbD k else (packNibbles l).getLsbD (k - 4) := by
  have hcons : packNibbles (n :: l) = (packNibbles l <<< 4) ||| n.setWidth 32 := rfl
  rw [hcons, BitVec.getLsbD_or, BitVec.getLsbD_shiftLeft, BitVec.getLsbD_setWidth]
  split_ifs with h
  · simp [h, hk]
  · simp [h, hk, BitVec.getLsbD_of_ge n k (Nat.not_lt.mp h)]

/-- The first nibble of a packed word stands at its low end. -/
theorem nib_packNibbles_zero (n : Nibble) (l : List Nibble) : nib (packNibbles (n :: l)) 0 = n := by
  refine BitVec.eq_of_getLsbD_eq fun j hj => ?_
  rw [nib, BitVec.getLsbD_extractLsb', getLsbD_packNibbles_cons n l (by omega), if_pos (by omega)]
  simp [hj]

/-- The nibbles after the first stand one place higher. -/
theorem nib_packNibbles_succ (n : Nibble) (l : List Nibble) {i : Nat} (hi : i + 1 < 8) :
    nib (packNibbles (n :: l)) (i + 1) = nib (packNibbles l) i := by
  refine BitVec.eq_of_getLsbD_eq fun j hj => ?_
  have hplace : 4 * (i + 1) + j - 4 = 4 * i + j := by omega
  rw [nib, nib, BitVec.getLsbD_extractLsb', BitVec.getLsbD_extractLsb', getLsbD_packNibbles_cons n l (by omega),
    if_neg (by omega), hplace]

/-- Nibble `i` of a packed word is the list's entry `i` (R214). -/
theorem nib_packNibbles {l : List Nibble} {i : Nat} (hl : i < l.length) (hi : i < 8) :
    nib (packNibbles l) i = l[i] := by
  induction l generalizing i with
  | nil => cases hl
  | cons n l ih =>
    cases i with
    | zero => exact nib_packNibbles_zero n l
    | succ i =>
      rw [nib_packNibbles_succ n l hi]
      exact ih (Nat.lt_of_succ_lt_succ hl) (Nat.lt_of_succ_lt hi)

/-- Word `2b - 1 + half` of a stored backup holds the eight addresses from `8 * half` on of bank `b` (R214). -/
theorem nvStore_word (s : State) {b : BankNo} (hb : b ≠ 0#2) {half : Nat} (hhalf : half < 2) :
    (nvStore s).nv.toList.getD (2 * b.toNat - 1 + half) 0#32 = backupWord s b half := by
  have hbanks : b = 1#2 ∨ b = 2#2 ∨ b = 3#2 := by
    revert b
    decide
  rcases hbanks with rfl | rfl | rfl <;> interval_cases half <;> rfl

/-- A stored backup holds the nibble of every address (R214). -/
theorem backupRead_nvStore (s : State) {b : BankNo} (hb : b ≠ 0#2) (a : Nibble) :
    backupRead (nvStore s).nv b a = backupNibble s b a.toNat := by
  have ha : a.toNat < 16 := a.isLt
  have hmod : a.toNat % 8 < 8 := Nat.mod_lt _ (by decide)
  rw [backupRead, nvStore_word s hb (by omega), backupWord, nib_packNibbles (by simpa using hmod) hmod]
  simp only [List.getElem_map, List.getElem_range, Nat.div_add_mod]

/-- The backup keeps the cells of addresses 0x0 to 0xC but the channel's (R214). -/
theorem backupNibble_toNat (s : State) (b : BankNo) (a : Nibble) :
    backupNibble s b a.toNat = if a.toNat ≤ 0xC ∧ ¬ (b = 1#2 ∧ a.toNat ≤ 1) then s.cell b a else 0#4 := by
  have hiff : (0xC < a.toNat ∨ b = 1#2 ∧ a.toNat < 2) ↔ ¬ (a.toNat ≤ 0xC ∧ ¬ (b = 1#2 ∧ a.toNat ≤ 1)) := by
    rw [not_and_or, not_not, Nat.not_le, Nat.lt_succ_iff]
  rw [backupNibble, BitVec.ofNat_toNat, BitVec.setWidth_eq]
  by_cases h : 0xC < a.toNat ∨ b = 1#2 ∧ a.toNat < 2
  · rw [if_pos h, if_neg (hiff.mp h)]
  · rw [if_neg h, if_pos (not_not.mp (hiff.not.mp h))]

theorem nvStore_cookie (s : State) : (nvStore s).nv.toList.head? = some nvCookie := rfl

theorem nodup_restoredCells : (restoredCells.map id).Nodup := by
  rw [List.map_id]
  unfold restoredCells
  decide

/-- The cells that a restore writes: addresses 0x0 to 0xC of banks 1 to 3 but the channel's (R215). -/
theorem mem_restoredCells_iff (b : BankNo) (a : Nibble) :
    (b, a) ∈ restoredCells ↔ b ≠ 0#2 ∧ a.toNat ≤ 0xC ∧ ¬ (b = 1#2 ∧ a.toNat ≤ 1) := by
  revert b a
  unfold restoredCells
  decide

/-- All of a restore whose cookie matches (R215). -/
theorem cell_nvRestore {s : State} (hcookie : s.nv.toList.getD 0 0#32 = nvCookie) (b : BankNo) (a : Nibble) :
    (nvRestore s).cell b a =
      if b ≠ 0#2 ∧ a.toNat ≤ 0xC ∧ ¬ (b = 1#2 ∧ a.toNat ≤ 1) then backupRead s.nv b a &&& wmask b a
      else s.cell b a := by
  rw [nvRestore, if_pos hcookie]
  split_ifs with h
  · exact cell_foldl_storeMasked_mem id (fun c => backupRead s.nv c.1 c.2) nodup_restoredCells
      ((mem_restoredCells_iff b a).mpr h) s
  · refine cell_foldl_storeMasked_other id (fun c => backupRead s.nv c.1 c.2) _ s b a fun c hc heq => h ?_
    exact (mem_restoredCells_iff b a).mp (heq ▸ hc)

/-- Settles O50: the nibbles of the words by `nib_packNibbles`; a restored cell passes its mask whole, since the masks
held when it was stored. -/
theorem backupRoundTrips : Obligations.BackupRoundTrips := by
  refine ⟨fun s => ⟨nvStore_cookie s, rfl, fun b a hb => ?_⟩, fun s u hmasks hnv => ⟨nvRestore_eq u, fun b a => ?_⟩⟩
  · exact (backupRead_nvStore s hb a).trans (backupNibble_toNat s b a)
  · rw [cell_nvRestore (by rw [hnv]; rfl), hnv]
    split_ifs with h
    · obtain ⟨hb, hlow, hnotChannel⟩ := h
      have hch : isChannel b a = false := Bool.eq_false_iff.mpr ((isChannel_iff b a).not.mpr hnotChannel)
      rw [backupRead_nvStore s hb, backupNibble_toNat, if_pos ⟨hlow, hnotChannel⟩,
        and_mask_of_masked (hmasks b a hch)]
    · rfl

end Sys2Proof.Machine
end

section
namespace Sys2Proof.Machine

/-! ## What an instruction leaves alone (R388) -/

/-- `t` is `s` but for the fields that an instruction may write: the bank and its flags, the assembler, the reply, the
console queues, the two stores and the bus lines (R388). -/
def HandlerFrame (s t : State) : Prop :=
  t = { s with
        bank := t.bank, curBank := t.curBank, timerEnabled := t.timerEnabled, timeDirty := t.timeDirty
        ramDirty := t.ramDirty, inb := t.inb, outb := t.outb, consOut := t.consOut, consIn := t.consIn, cfg := t.cfg
        map := t.map, bus := t.bus }

theorem HandlerFrame.trans {s t u : State} (h : HandlerFrame s t) (k : HandlerFrame t u) : HandlerFrame s u := by
  unfold HandlerFrame at h k ⊢
  rw [k, h]

theorem HandlerFrame.nv {s t : State} (h : HandlerFrame s t) : t.nv = s.nv := by
  rw [HandlerFrame] at h
  rw [h]

theorem wrCell_handlerFrame (b : BankNo) (a d : Nibble) (s : State) : HandlerFrame s (wrCell b a d s) := by
  rw [wrCell_eq]
  rfl

theorem runConsInput_handlerFrame (s : State) : HandlerFrame s (runConsInput s) := by
  unfold runConsInput
  split <;> rfl

/-- A command changes at most a queue or a store, and the reply (R270). -/
theorem execCmd_handlerFrame (s : State) : HandlerFrame s (execCmd s) := by
  unfold execCmd
  cases decodeCmd (cmdByte s) with
  | cmdConsInput => exact runConsInput_handlerFrame s
  | _ => rfl

theorem complete_handlerFrame (s : State) : HandlerFrame s (complete s) := by
  rcases complete_cases s with ⟨-, h⟩ | ⟨-, h⟩ <;> rw [h]
  · exact (execCmd_handlerFrame s).trans rfl
  · rfl

theorem asmPush_handlerFrame (b : Byte) (s : State) : HandlerFrame s (asmPush b s) := by
  rcases asmPush_cases b s with ⟨-, h⟩ | ⟨-, -, h⟩ | ⟨-, -, u, hu, ⟨-, -, h⟩ | ⟨-, h⟩⟩ <;> rw [h]
  · rfl
  · rw [magicPhase_frame]
    rfl
  · have hstored : HandlerFrame s u := by rw [hu]; split <;> rfl
    exact hstored.trans (complete_handlerFrame u)
  · rw [hu]
    split <;> rfl

theorem postReadMsghi_handlerFrame (s : State) : HandlerFrame s (postReadMsghi s) := by
  rcases postReadMsghi_cases s with ⟨-, -, h⟩ | ⟨-, h⟩ <;> rw [h] <;> rfl

theorem postReadMsglo_handlerFrame (s : State) : HandlerFrame s (postReadMsglo s) := by
  rcases postReadMsglo_cases s with ⟨-, -, -, h⟩ | ⟨-, -, -, h⟩ | ⟨-, h⟩ <;> rw [h] <;> rfl

theorem resetAction_handlerFrame (d : Nibble) (s : State) : HandlerFrame s (resetAction d s) := by
  rw [resetAction_frame]
  rfl

/-- Every instruction, whatever its operands, keeps the frame. -/
theorem exec_handlerFrame {i : Instr} {s t : State} (h : exec i s = .next t) : HandlerFrame s t := by
  cases i with
  | rdMsghi d => cases h; exact postReadMsghi_handlerFrame (driveRead _ s)
  | rdMsglo d => cases h; exact postReadMsglo_handlerFrame (driveRead _ s)
  | wrMsglo d => cases h; exact asmPush_handlerFrame _ { s with inb := _ }
  | wrReset bank d => cases h; exact resetAction_handlerFrame d s
  | cmdConsInput opt => cases h; exact runConsInput_handlerFrame s
  | wrS1 | wrS10 | wrMi1 | wrMi10 | wrH1 | wrH10 | wrDow | wrD1 | wrD10 | wrMo1 | wrMo10 | wrY1 | wrY10 | wrAmi1
  | wrAmi10 | wrAh1 | wrAh10 | wrAdow | wrAd1 | wrAd10 | wrU9 | wrH24 | wrLeap | wrUc | wrRam =>
    cases h; exact wrCell_handlerFrame _ _ _ s
  | _ => cases h; rfl

/-! ## The steps that leave the backup alone (R216, R412) -/

theorem busCycle_nv {c : BusCycle} {s t : State} (h : busCycle c s = .next t) : t.nv = s.nv := by
  rcases busCycle_cases c s with ⟨-, e⟩ | ⟨-, e⟩ <;> rw [e] at h
  · exact (exec_handlerFrame h).nv
  · cases h
    rfl

theorem hostStep_nv {k : Nat} {tm : BusTiming} {s t : State} (h : hostStep k tm s = .next t) : t.nv = s.nv := by
  rcases hostStep_eq_next h with e | ⟨cyc, u, hu, e⟩ <;> rw [e]
  exact (busCycle_nv hu :)

theorem slowDispatch_nv (s : State) : (slowDispatch s).nv = s.nv := by
  rcases slowDispatch_cases s with ⟨-, h⟩ | ⟨-, ⟨-, h⟩ | ⟨-, -, h⟩ | ⟨-, -, h⟩ | ⟨-, -, -, h⟩⟩ <;> rw [h]
  case inr.inr.inr.inr => exact (execCmd_handlerFrame s).nv
  all_goals rfl

theorem wakeup_nv (s : State) : (wakeup s).nv = s.nv := by
  rcases wakeup_cases s with ⟨-, h⟩ | ⟨-, -, -, h⟩ | ⟨-, -, h⟩ <;> rw [h]
  rw [digitsOfHw_nv]

theorem inTimeout_nv (s : State) : (inTimeout s).nv = s.nv := by
  rcases inTimeout_cases s with ⟨-, -, h⟩ | ⟨-, h⟩ <;> rw [h]

theorem outTimeout_nv (s : State) : (outTimeout s).nv = s.nv := by
  rcases outTimeout_cases s with ⟨-, -, h⟩ | ⟨-, h⟩ <;> rw [h]
  exact outFinish_nv s

theorem boot_nv (v : BootValues) (s : State) : (boot v s).nv = s.nv := by
  rcases boot_cases v s with ⟨-, h⟩ | ⟨-, h⟩ <;> rw [h]
  simp [bootSequence, bootProtocol, bootBank, loadBootValues]

theorem tick_nv (ms us : Nat) (s : State) : (tick ms us s).nv = s.nv := by
  unfold tick
  split <;> rfl

theorem onMcu_nv {f : State → State} {s : State} (hf : (f s).nv = s.nv) : (onMcu f s).nv = s.nv := by
  rcases onMcu_cases f s with ⟨-, h⟩ | ⟨-, h⟩ <;> rw [h]
  exact hf

/-! ## The step that writes the backup -/

/-- From `s`, an enabled synchronizer step has stored the cells (R205, R207). -/
def SyncStores (s t : State) : Prop := syncEnabled s = true ∧ t.nv = (nvStore s).nv

theorem syncToHw_nv_cases (s : State) : (syncToHw s).nv = s.nv ∨ SyncStores s (syncToHw s) := by
  rcases syncToHw_cases s with ⟨hsync, h⟩ | ⟨-, h⟩ <;> rw [h]
  · exact .inr ⟨hsync, nvStore_syncCommit_nv s⟩
  · exact .inl rfl

theorem mainLoop_nv_cases (s : State) : (mainLoop s).nv = s.nv ∨ SyncStores s (mainLoop s) := by
  rcases mainLoop_cases s with ⟨-, h⟩ | ⟨-, -, h⟩ | ⟨-, -, -, h⟩ | ⟨-, -, -, -, h⟩ | ⟨-, -, -, -, h⟩ <;> rw [h]
  · exact .inl (slowDispatch_nv s)
  · exact syncToHw_nv_cases s
  · exact .inl (inTimeout_nv s)
  · exact .inl (outTimeout_nv s)
  · exact .inl rfl

/-- On a stopped MCU nothing is stored (R414). -/
theorem onMcu_nv_cases {f : State → State} {s : State} (hf : (f s).nv = s.nv ∨ SyncStores s (f s)) :
    (onMcu f s).nv = s.nv ∨ s.handlersEnabled = true ∧ SyncStores s (onMcu f s) := by
  rcases onMcu_cases f s with ⟨hrun, h⟩ | ⟨-, h⟩ <;> rw [h]
  · exact hf.imp_right fun hstores => ⟨hrun, hstores⟩
  · exact .inl rfl

/-- Of the listed steps all but the synchronizer's leave the backup alone. -/
theorem runEvent_nv {e : Event} {s t : State} (he : e ≠ .syncToHw) (h : runEvent e s = .next t) : t.nv = s.nv := by
  cases e with
  | bus c => exact busCycle_nv h
  | hostStep k tm => exact hostStep_nv h
  | syncToHw => exact absurd rfl he
  | wakeup => cases h; exact onMcu_nv (wakeup_nv s)
  | slowDispatch => cases h; exact onMcu_nv (slowDispatch_nv s)
  | inTimeout => cases h; exact onMcu_nv (inTimeout_nv s)
  | outTimeout => cases h; exact onMcu_nv (outTimeout_nv s)
  | consoleOut | consoleIn => cases h; exact onMcu_nv rfl
  | tick ms us => cases h; exact tick_nv ms us s
  | boot v => cases h; exact boot_nv v s
  | hwTick | hostCall | hostTick | mcuReset => cases h; rfl

/-- A step that does not leave the backup alone is the synchronizer's, listed or the main loop's own. -/
theorem step_nv_cases {s t : State} (h : step s = .next t) :
    t.nv = s.nv ∨ (s.events = [] ∨ ∃ rest, s.events = .syncToHw :: rest) ∧ s.handlersEnabled = true ∧
      SyncStores s t := by
  unfold step at h
  cases he : s.events with
  | nil =>
    cases h.symm.trans (nextStep_nil he)
    exact (onMcu_nv_cases (mainLoop_nv_cases s)).imp_right fun hstores => ⟨.inl rfl, hstores⟩
  | cons e rest =>
    rw [nextStep_cons he] at h
    by_cases hsync : e = .syncToHw
    · subst hsync
      cases h
      exact (onMcu_nv_cases (syncToHw_nv_cases { s with events := rest })).imp_right fun hstores =>
        ⟨.inr ⟨rest, rfl⟩, hstores⟩
    · exact .inl (runEvent_nv hsync h :)

/-- Settles O10: only the synchronizer's step stores the cells, and what it stores begins with the cookie. -/
theorem onlySyncWritesTheBackup : Obligations.OnlySyncWritesTheBackup := by
  intro s t h hne
  obtain ⟨hwho, hrun, hsync, hstored⟩ := (step_nv_cases h).resolve_left hne
  obtain ⟨hdirty, htimer⟩ := (syncEnabled_iff s).mp hsync
  exact ⟨hwho, hrun, hdirty, htimer, hstored ▸ nvStore_cookie s⟩

end Sys2Proof.Machine
end

/-! # The CRC (spec/42_frame_assembler.md, R253; spec/30_encoding.md, R108)

Each stage of the division is injective: the polynomial's top bit records the bit that the shift drops. So a changed byte
changes the register, and no later byte changes it back. -/

section
namespace Sys2Proof.Machine

open Sys2Proof.Config

theorem getLsbD_top_crcBit (c : Word32) : (crcBit c).getLsbD 31 = c.getLsbD 0 := by
  unfold crcBit
  cases h : c.getLsbD 0 <;> simp

theorem crcBit_injective : Function.Injective crcBit := by
  intro c d h
  have hlow : c.getLsbD 0 = d.getLsbD 0 := by rw [← getLsbD_top_crcBit, h, getLsbD_top_crcBit]
  have hshift : c >>> 1 = d >>> 1 := by
    unfold crcBit at h
    rw [hlow] at h
    split at h
    · exact (BitVec.xor_left_inj _).mp h
    · exact h
  refine BitVec.eq_of_getLsbD_eq fun i hi => ?_
  cases i with
  | zero => exact hlow
  | succ i => simpa [Nat.add_comm 1 i] using congrArg (BitVec.getLsbD · i) hshift

theorem crcByte_eq_iterate (c : Word32) (b : Byte) : crcByte c b = crcBit^[8] (c ^^^ b.setWidth 32) := rfl

theorem crcByte_left_injective (b : Byte) : Function.Injective (crcByte · b) := fun _ _ h =>
  (BitVec.xor_left_inj _).mp (crcBit_injective.iterate 8 h)

theorem crcByte_right_injective (c : Word32) : Function.Injective (crcByte c) := fun b b' h => by
  have hwide : b.setWidth 32 = b'.setWidth 32 := (BitVec.xor_right_inj _).mp (crcBit_injective.iterate 8 h)
  simpa using congrArg (BitVec.setWidth 8) hwide

theorem crcFold_left_injective (bytes : List Byte) : Function.Injective (crcFold · bytes) := by
  simp only [crcFold_eq_foldl]
  induction bytes with
  | nil => exact fun _ _ h => h
  | cons b bs ih => exact ih.comp (crcByte_left_injective b)

/-- Settles O45: the registers differ after the changed byte, and every later byte keeps them apart. -/
theorem crcDetectsEveryChangedByte : Obligations.CrcDetectsEveryChangedByte := by
  intro p before after b b' hp hne heq
  have hfold : crcFold 0xFFFFFFFF#32 (before ++ b :: after) = crcFold 0xFFFFFFFF#32 (before ++ b' :: after) :=
    (BitVec.xor_left_inj _).mp (by simpa only [crc32, hp, crcIsoHdlc] using heq)
  simp only [crcFold_eq_foldl, List.foldl_append, List.foldl_cons] at hfold
  simp only [← crcFold_eq_foldl] at hfold
  exact hne (crcByte_right_injective _ (crcFold_left_injective after hfold))

end Sys2Proof.Machine
end

/-! # The frame assembler (spec/42_frame_assembler.md) -/

section
namespace Sys2Proof.Machine

open Sys2Proof.Config

/-! ## The magic phase (R244) -/

theorem asmPush_magic {s : State} (hq : s.inb.state ≠ .queuedSlow) (hpos : s.inb.pos < 2) (b : Byte) :
    asmPush b s = magicPhase b s := by
  rcases asmPush_cases b s with ⟨h, -⟩ | ⟨-, -, h⟩ | ⟨-, h, -⟩
  · exact absurd h hq
  · exact h
  · omega

theorem magicPhase_first {s : State} (hpos : s.inb.pos = 0) : magicPhase magic0 s = startMagic magic0 s := by
  simp [magicPhase, hpos]

theorem magicPhase_second {s : State} (hpos : s.inb.pos = 1) :
    magicPhase magic1 s = { s with inb := { s.inb with buf := Memory.write s.inb.buf 1 magic1, pos := 2 } } := by
  simp [magicPhase, hpos]

theorem magicPhase_restart {s : State} (hpos : s.inb.pos = 1) : magicPhase magic0 s = startMagic magic0 s := by
  simp [magicPhase, hpos, show magic0 ≠ magic1 by decide]

theorem magicPhase_mismatch {b : Byte} {s : State} (h0 : b ≠ magic0) (h1 : s.inb.pos = 0 ∨ b ≠ magic1) :
    magicPhase b s = { s with inb := { s.inb with pos := 0, state := .idle } } := by
  unfold magicPhase
  rw [if_neg h0]
  split
  · rfl
  · next hpos => rw [if_neg (h1.resolve_left hpos)]

/-- Settles O28: at each of the two positions the byte continues the match, starts a new one, or resets it. -/
theorem magicPhaseResynchronizes : Obligations.MagicPhaseResynchronizes := by
  intro b s hq hpos
  refine ⟨_, rfl, ?_⟩
  rw [asmPush_magic hq (by omega)]
  change _ ∧ (if b = (if s.inb.pos = 0 then magic0 else magic1) then _ else if b = magic0 then _ else _)
  rcases Nat.le_one_iff_eq_zero_or_eq_one.mp hpos with h | h
  · rw [if_pos h]
    by_cases hb : b = magic0
    · rw [if_pos hb, hb, magicPhase_first h]
      simp [startMagic, h, Memory.read_write, inTimeoutMs]
    · rw [if_neg hb, if_neg hb, magicPhase_mismatch hb (.inl h)]
      simp
  · rw [if_neg (show s.inb.pos ≠ 0 by omega)]
    by_cases hb : b = magic1
    · rw [if_pos hb, hb, magicPhase_second h]
      simp [h, Memory.read_write]
    rw [if_neg hb]
    by_cases hb0 : b = magic0
    · rw [if_pos hb0, hb0, magicPhase_restart h]
      simp [startMagic, Memory.read_write, inTimeoutMs]
    · rw [if_neg hb0, magicPhase_mismatch hb0 (.inr hb)]
      simp

/-! ## A byte after the magic (R242, R245, R246) -/

/-- `asm_push` after the magic, up to its last test: the byte is stored, and a full header is read (R242). -/
def takeByte (b : Byte) (s : State) : State :=
  if s.inb.pos + 1 = hdrLen s.params then headerKnown (storeByte b s) else storeByte b s

theorem takeByte_header {s : State} (h : s.inb.pos + 1 = hdrLen s.params) (b : Byte) :
    takeByte b s = headerKnown (storeByte b s) := if_pos h

theorem takeByte_other {s : State} (h : s.inb.pos + 1 ≠ hdrLen s.params) (b : Byte) : takeByte b s = storeByte b s :=
  if_neg h

theorem asmPush_complete {s : State} {b : Byte} (hq : s.inb.state ≠ .queuedSlow) (hpos : 2 ≤ s.inb.pos)
    (hwhole : (takeByte b s).inb.state = .headerKnown ∧ (takeByte b s).inb.pos = (takeByte b s).inb.expected) :
    asmPush b s = complete (takeByte b s) := by
  rcases asmPush_cases b s with ⟨h, -⟩ | ⟨-, h, -⟩ | ⟨-, -, _, rfl, ⟨-, -, h⟩ | ⟨h, -⟩⟩
  · exact absurd h hq
  · omega
  · exact h
  · exact absurd hwhole h

theorem asmPush_incomplete {s : State} {b : Byte} (hq : s.inb.state ≠ .queuedSlow) (hpos : 2 ≤ s.inb.pos)
    (hshort : ¬ ((takeByte b s).inb.state = .headerKnown ∧ (takeByte b s).inb.pos = (takeByte b s).inb.expected)) :
    asmPush b s = takeByte b s := by
  rcases asmPush_cases b s with ⟨h, -⟩ | ⟨-, h, -⟩ | ⟨-, -, _, rfl, ⟨h1, h2, -⟩ | ⟨-, h⟩⟩
  · exact absurd h hq
  · omega
  · exact absurd ⟨h1, h2⟩ hshort
  · exact h

theorem storeByte_frame (b : Byte) (s : State) :
    storeByte b s = { s with inb := { s.inb with buf := (storeByte b s).inb.buf, pos := s.inb.pos + 1 } } := rfl

/-- All that storing a byte does to what is read: the byte at the cursor, if the buffer has room there (R245). -/
theorem read_storeByte (b : Byte) (s : State) (x : Nat) :
    Memory.read (storeByte b s).inb.buf x =
      if x = s.inb.pos ∧ s.inb.pos < bufSize s.params then b else Memory.read s.inb.buf x := by
  simp only [storeByte]
  split
  · next h => simp [Memory.read_write, h]
  · next h => simp [h]

/-! ## The completed frame (R247, R249) -/

theorem and_low_six_toNat (b : Byte) : (b &&& 0x3F#8).toNat = (cmdCode b).toNat := by
  rw [cmdCode_toNat, BitVec.toNat_and]
  exact Nat.and_two_pow_sub_one_eq_mod b.toNat 6

/-- `FAST_SET` is the codes 0x00, 0x01, 0x06 and 0x07 (R249, D14). -/
theorem isFast_decodeCmd (b : Byte) :
    isFast (decodeCmd b) = true ↔ (b &&& 0x3F#8).toNat ∈ [0x00, 0x01, 0x06, 0x07] := by
  have h := isFast_cmdByteOf (cmdOpt b) (cmdCode b)
  rw [cmdByteOf_fields, decode] at h
  simpa only [and_low_six_toNat, List.mem_cons, List.not_mem_nil, or_false] using h

theorem fastPathTakes_iff (s : State) :
    fastPathTakes s = true ↔
      FrameIsGood s ∧ OptionsAllowed s ∧
        (Memory.read s.inb.buf 2 &&& 0x3F#8).toNat ∈ [0x00, 0x01, 0x06, 0x07] := by
  rw [fastPathTakes, Bool.and_eq_true, Bool.and_eq_true, crcOk_iff, optOk_iff, isFast_decodeCmd, and_assoc]
  rfl

/-- Settles O29: the byte is stored, and of the two tests after it the first that applies says what follows. -/
theorem bytesAfterTheMagic : Obligations.BytesAfterTheMagic := by
  intro b s hq hpos
  refine ⟨storeByte b s, storeByte_frame b s, read_storeByte b s, ?_⟩
  split
  · next hhdr =>
    have htake := takeByte_header hhdr b
    refine (asmPush_incomplete hq hpos ?_).trans htake
    rw [htake]
    rintro ⟨-, htotal⟩
    simp only [headerKnown, storeByte, crcLen] at htotal
    omega
  · next hhdr =>
    have htake := takeByte_other hhdr b
    split
    · next hlast =>
      have hpush : asmPush b s = complete (storeByte b s) := by
        rw [← htake]
        refine asmPush_complete hq hpos ?_
        rw [htake]
        exact hlast
      rw [hpush]
      rcases complete_cases (storeByte b s) with ⟨hfast, h⟩ | ⟨hslow, h⟩
      · rw [if_pos ((fastPathTakes_iff _).mp hfast)]
        exact ⟨_, exec_decodeCmd (storeByte b s), h⟩
      · rw [if_neg ((fastPathTakes_iff _).not.mp (Bool.eq_false_iff.mp hslow))]
        exact h
    · next hmore =>
      refine (asmPush_incomplete hq hpos ?_).trans htake
      rw [htake]
      exact hmore

end Sys2Proof.Machine
end

/-! # The round trip of a request frame (spec/42_frame_assembler.md, R253) -/

section
namespace Sys2Proof.Machine

open Sys2Proof.Config

/-! ## Bytes that stand in a row (R11) -/

/-- The bytes `l` stand in `m` from address `a` on. -/
def Memory.Holds (m : Memory) (a : Nat) (l : List Byte) : Prop := Memory.readBytes m a l.length = l

theorem Memory.readBytes_add (m : Memory) (a i j : Nat) :
    Memory.readBytes m a (i + j) = Memory.readBytes m a i ++ Memory.readBytes m (a + i) j := by
  simp only [Memory.readBytes_eq_map, List.range_add, List.map_append, List.map_map, Function.comp_def, Nat.add_assoc]

theorem Memory.holds_append {m : Memory} {a : Nat} {l l' : List Byte} :
    Memory.Holds m a (l ++ l') ↔ Memory.Holds m a l ∧ Memory.Holds m (a + l.length) l' := by
  unfold Memory.Holds
  rw [List.length_append, Memory.readBytes_add]
  exact List.append_eq_append_iff_of_size_eq_left (Memory.readBytes_length m a l.length)

theorem Memory.holds_singleton {m : Memory} {a : Nat} {b : Byte} : Memory.Holds m a [b] ↔ Memory.read m a = b := by
  simp [Memory.Holds, Memory.readBytes]

theorem Memory.Holds.readBytes_eq {m : Memory} {a a' n : Nat} {l : List Byte} (h : Memory.Holds m a l) (ha : a' = a)
    (hn : n = l.length) : Memory.readBytes m a' n = l := by
  rw [ha, hn]
  exact h

/-- A row grows by the byte that follows it. -/
theorem Memory.Holds.write_next {m : Memory} {a : Nat} {l : List Byte} (h : Memory.Holds m a l) (b : Byte) :
    Memory.Holds (Memory.write m (a + l.length) b) a (l ++ [b]) := by
  refine Memory.holds_append.mpr ⟨?_, Memory.holds_singleton.mpr (Memory.read_write_same m _ b)⟩
  unfold Memory.Holds
  refine (Memory.readBytes_congr fun i _ hi => ?_).trans h
  exact Memory.read_write_other m b (by omega)

/-! ## A frame on its way in -/

/-- Where the bytes of a request frame stand in it (R104): the magic, the command byte and the length field make up the
header, whose length field says how many bytes of argument follow; the trailer is last. -/
structure FrameShape (p : Params) (header rest : List Byte) (n : Nat) : Prop where
  header_length : header.length = hdrLen p
  length_field : ∀ m, Memory.Holds m 0 header → beNat (Memory.readBytes m 3 p.lenWidth) = n
  rest_length : rest.length = n + crcLen
  fits : n ≤ p.payloadMax

/-- From the idle state `s`, the bytes `sent` of a frame with `n` bytes of argument have come in, and brought the
assembler to `t` without completing anything (R42 to R46). -/
structure Received (s : State) (n : Nat) (sent : List Byte) (t : State) : Prop where
  frame : t = { s with inb := t.inb }
  latch : t.inb.hi = s.inb.hi
  cursor : t.inb.pos = sent.length
  deadline : t.inb.deadline = s.now + inTimeoutMs
  bytes : Memory.Holds t.inb.buf 0 sent
  header_pending : sent.length < hdrLen s.params → t.inb.state = .accumulating
  header_known : hdrLen s.params ≤ sent.length →
    t.inb.state = .headerKnown ∧ t.inb.len = n ∧ t.inb.expected = hdrLen s.params + n + crcLen

theorem Received.params {s t : State} {n : Nat} {sent : List Byte} (h : Received s n sent t) : t.params = s.params := by
  rw [h.frame]

theorem Received.not_queued {s t : State} {n : Nat} {sent : List Byte} (h : Received s n sent t) :
    t.inb.state ≠ .queuedSlow := by
  rcases Nat.lt_or_ge sent.length (hdrLen s.params) with hlt | hge
  · simp [h.header_pending hlt]
  · simp [h.header_known hge]

/-- The magic brings the idle assembler to its third byte (R244). -/
theorem received_magic {s : State} (hstate : s.inb.state = .idle) (hpos : s.inb.pos = 0) (n : Nat) :
    Received s n [magic0, magic1] (asmPush magic1 (asmPush magic0 s)) := by
  have hfirst : asmPush magic0 s = startMagic magic0 s := by
    rw [asmPush_magic (by simp [hstate]) (by omega), magicPhase_first hpos]
  have hsecond : asmPush magic1 (startMagic magic0 s) = _ :=
    (asmPush_magic (by simp [startMagic]) (by simp [startMagic]) magic1).trans (magicPhase_second rfl)
  rw [hfirst, hsecond]
  have := four_le_hdrLen s.params
  exact {
    frame := rfl
    latch := rfl
    cursor := rfl
    deadline := rfl
    bytes := (Memory.holds_singleton.mpr (Memory.read_write_same s.inb.buf 0 magic0)).write_next magic1
    header_pending := fun _ => rfl
    header_known := fun h => by
      simp only [List.length_cons, List.length_nil] at h
      omega }

theorem storeByte_of_room {s : State} (h : s.inb.pos < bufSize s.params) (b : Byte) :
    storeByte b s =
      { s with inb := { s.inb with buf := Memory.write s.inb.buf s.inb.pos b, pos := s.inb.pos + 1 } } := by
  simp [storeByte, h]

theorem Received.holds_next {s t : State} {n : Nat} {sent : List Byte} (h : Received s n sent t) (b : Byte) :
    Memory.Holds (Memory.write t.inb.buf t.inb.pos b) 0 (sent ++ [b]) := by
  have hnext := h.bytes.write_next b
  rwa [Nat.zero_add, ← h.cursor] at hnext

/-- The byte that ends the header fixes the length and the total (R246). -/
theorem Received.take_header {s t : State} {header rest sent : List Byte} {n : Nat} {b : Byte}
    (h : Received s n sent t) (hf : FrameShape s.params header rest n) (hroom : t.inb.pos < bufSize t.params)
    (hheader : header = sent ++ [b]) : Received s n (sent ++ [b]) (headerKnown (storeByte b t)) := by
  have hheld := h.holds_next b
  have hcount : (sent ++ [b]).length = hdrLen s.params := hheader ▸ hf.header_length
  have hfield : lenField (storeByte b t) = n := by
    rw [storeByte_of_room hroom, lenField, h.params]
    exact hf.length_field _ (hheader ▸ hheld)
  rw [headerKnown, hfield, storeByte_of_room hroom]
  exact {
    frame := by rw [h.frame]
    latch := h.latch
    cursor := by simp [h.cursor]
    deadline := h.deadline
    bytes := hheld
    header_pending := fun hlt => absurd hcount hlt.ne
    header_known := fun _ => ⟨rfl, rfl, by rw [h.params]⟩ }

/-- Any other byte after the magic is stored alone (R245). -/
theorem Received.store {s t : State} {sent : List Byte} {n : Nat} {b : Byte} (h : Received s n sent t)
    (hroom : t.inb.pos < bufSize t.params) (hhdr : sent.length + 1 ≠ hdrLen s.params) :
    Received s n (sent ++ [b]) (storeByte b t) := by
  rw [storeByte_of_room hroom]
  exact {
    frame := by rw [h.frame]
    latch := h.latch
    cursor := by simp [h.cursor]
    deadline := h.deadline
    bytes := h.holds_next b
    header_pending := fun hlt => h.header_pending (by rw [List.length_append, List.length_singleton] at hlt; omega)
    header_known := fun hge => h.header_known (by rw [List.length_append, List.length_singleton] at hge; omega) }

/-- One more byte of the frame comes in (R242). -/
theorem Received.take_byte {s t : State} {header rest sent after : List Byte} {n : Nat} {b : Byte}
    (h : Received s n sent t) (hf : FrameShape s.params header rest n)
    (hsplit : header ++ rest = sent ++ b :: after) : Received s n (sent ++ [b]) (takeByte b t) := by
  have hlen := congrArg List.length hsplit
  simp only [List.length_append, List.length_cons, hf.header_length, hf.rest_length] at hlen
  have hroom : t.inb.pos < bufSize t.params := by
    have := hf.fits
    rw [h.params, h.cursor, bufSize, frameOverhead]
    omega
  by_cases hhdr : sent.length + 1 = hdrLen s.params
  · rw [takeByte_header (by rw [h.cursor, h.params, hhdr])]
    refine h.take_header hf hroom (List.append_inj_left (t₂ := after) (hsplit.trans (by simp)) ?_)
    simp [hf.header_length, hhdr]
  · rw [takeByte_other (by rwa [h.cursor, h.params])]
    exact h.store hroom hhdr

/-- `asm_push`'s last test finds the whole frame and no part of it (R247). -/
theorem Received.whole_iff {s t : State} {sent : List Byte} {n : Nat} (h : Received s n sent t) :
    t.inb.state = .headerKnown ∧ t.inb.pos = t.inb.expected ↔ sent.length = hdrLen s.params + n + crcLen := by
  rcases Nat.lt_or_ge sent.length (hdrLen s.params) with hlt | hge
  · simp only [h.header_pending hlt, reduceCtorEq, false_and, false_iff]
    omega
  · obtain ⟨hstate, -, hexp⟩ := h.header_known hge
    simp [hstate, hexp, h.cursor]

/-- The rest of the frame, byte by byte: every byte but the last is taken, and the last one completes it (R247). -/
theorem Received.complete_rest {s t : State} {header rest sent after : List Byte} {n : Nat} {b : Byte}
    (h : Received s n sent t) (hf : FrameShape s.params header rest n) (hmagic : 2 ≤ sent.length)
    (hsplit : header ++ rest = sent ++ b :: after) :
    ∃ u, (b :: after).foldl (fun t b => asmPush b t) t = complete u ∧ Received s n (header ++ rest) u := by
  induction after generalizing b sent t with
  | nil =>
    have hnext := hsplit ▸ h.take_byte hf hsplit
    have hlen : (header ++ rest).length = hdrLen s.params + n + crcLen := by
      rw [List.length_append, hf.header_length, hf.rest_length, Nat.add_assoc]
    exact ⟨takeByte b t,
      asmPush_complete h.not_queued (hmagic.trans_eq h.cursor.symm) (hnext.whole_iff.mpr hlen), hnext⟩
  | cons c after ih =>
    have hnext := h.take_byte hf hsplit
    have hshort : (sent ++ [b]).length ≠ hdrLen s.params + n + crcLen := by
      have hlen := congrArg List.length hsplit
      simp only [List.length_append, List.length_cons, hf.header_length, hf.rest_length] at hlen
      rw [List.length_append, List.length_singleton]
      omega
    have hpush : asmPush b t = takeByte b t :=
      asmPush_incomplete h.not_queued (hmagic.trans_eq h.cursor.symm) (hnext.whole_iff.not.mpr hshort)
    rw [List.foldl_cons, hpush]
    exact ih hnext (by rw [List.length_append]; omega) (hsplit.trans (by simp))

/-! ## The round trip (R253) -/

/-- The magic, the command byte and the length field of a request frame (R104). -/
def requestHeader (p : Params) (cmd : Byte) (n : Nat) : List Byte := [magic0, magic1] ++ [cmd] ++ beBytes p.lenWidth n

/-- What the CRC of a request covers: the command byte, the length field and the argument (R108). -/
def requestBody (p : Params) (cmd : Byte) (arg : List Byte) : List Byte :=
  cmd :: (beBytes p.lenWidth arg.length ++ arg)

theorem requestBody_length (p : Params) (cmd : Byte) (arg : List Byte) :
    (requestBody p cmd arg).length = 1 + p.lenWidth + arg.length := by
  simp [requestBody]
  omega

/-- The argument of a request frame and its trailer (R104, R108). -/
def requestRest (p : Params) (cmd : Byte) (arg : List Byte) : List Byte :=
  arg ++ beBytes crcLen (crc32 p (requestBody p cmd arg)).toNat

theorem requestFrame_eq (p : Params) (cmd : Byte) (arg : List Byte) :
    requestFrame p cmd arg = requestHeader p cmd arg.length ++ requestRest p cmd arg := by
  simp [requestFrame, frameBytes, requestHeader, requestBody, requestRest]

/-- The length field's bytes say the length they were made of, which the parameters let them hold (R9, R107). -/
theorem beNat_length_field {p : Params} (hp : p.blockWf) {n : Nat} (hn : n ≤ p.payloadMax) :
    beNat (beBytes p.lenWidth n) = n := by
  obtain ⟨-, hmax, -⟩ := hp
  have := Nat.two_pow_pos (8 * p.lenWidth)
  rw [beNat_beBytes, show 256 = 2 ^ 8 from rfl, ← Nat.pow_mul]
  exact Nat.mod_eq_of_lt (by omega)

theorem beNat_trailer (w : Word32) : beNat (beBytes crcLen w.toNat) = w.toNat := by
  rw [beNat_beBytes]
  exact Nat.mod_eq_of_lt w.isLt

theorem requestHeader_length (p : Params) (cmd : Byte) (n : Nat) : (requestHeader p cmd n).length = hdrLen p := by
  simp [requestHeader, hdrLen]
  omega

theorem frameShape_request {p : Params} (hp : p.blockWf) (cmd : Byte) {arg : List Byte}
    (hfits : arg.length ≤ p.payloadMax) :
    FrameShape p (requestHeader p cmd arg.length) (requestRest p cmd arg) arg.length where
  header_length := requestHeader_length p cmd arg.length
  length_field m hm := by
    obtain ⟨-, hfield⟩ := Memory.holds_append.mp hm
    rw [hfield.readBytes_eq (a' := 3) rfl (beBytes_length _ _).symm]
    exact beNat_length_field hp hfits
  rest_length := by simp [requestRest]
  fits := hfits

/-- From idle, the bytes of a request frame bring the assembler to the instant of its completion (R242 to R247). -/
theorem received_request {s : State} (hstate : s.inb.state = .idle) (hpos : s.inb.pos = 0) (hp : s.params.blockWf)
    (cmd : Byte) {arg : List Byte} (hfits : arg.length ≤ s.params.payloadMax) :
    ∃ u, (requestFrame s.params cmd arg).foldl (fun t b => asmPush b t) s = complete u ∧
      Received s arg.length (requestFrame s.params cmd arg) u := by
  obtain ⟨u, hpush, hu⟩ := (received_magic hstate hpos arg.length).complete_rest
    (frameShape_request hp cmd hfits) le_rfl (List.append_assoc _ _ _)
  rw [requestFrame_eq]
  exact ⟨u, hpush, hu⟩

/-- The parts of a request frame that stands in the buffer, each read where the operands of the command are (R104). -/
theorem readBytes_of_holds_request {p : Params} {cmd : Byte} {arg : List Byte} {m : Memory}
    (h : Memory.Holds m 0 (requestFrame p cmd arg)) :
    Memory.read m 2 = cmd ∧ Memory.readBytes m (hdrLen p) arg.length = arg ∧
      Memory.readBytes m 2 (1 + p.lenWidth + arg.length) = requestBody p cmd arg ∧
      Memory.readBytes m (hdrLen p + arg.length) crcLen = beBytes crcLen (crc32 p (requestBody p cmd arg)).toNat := by
  obtain ⟨hfront, htrailer⟩ := Memory.holds_append.mp
    (show Memory.Holds m 0 (([magic0, magic1] ++ requestBody p cmd arg) ++
      beBytes crcLen (crc32 p (requestBody p cmd arg)).toNat) from h)
  obtain ⟨-, hbody⟩ := Memory.holds_append.mp hfront
  obtain ⟨hcmd, hrest⟩ := Memory.holds_append.mp
    (show Memory.Holds m 2 ([cmd] ++ (beBytes p.lenWidth arg.length ++ arg)) from hbody)
  obtain ⟨-, harg⟩ := Memory.holds_append.mp hrest
  refine ⟨Memory.holds_singleton.mp hcmd, harg.readBytes_eq ?_ rfl,
    hbody.readBytes_eq rfl (requestBody_length p cmd arg).symm, htrailer.readBytes_eq ?_ (beBytes_length _ _).symm⟩
  · simp [hdrLen]
  · simp only [hdrLen, List.length_append, List.length_cons, List.length_nil, requestBody_length]
    omega

/-- A request frame in the buffer is good, whatever `crc32` is (R248). -/
theorem frameIsGood_of_holds_request {u : State} {cmd : Byte} {arg : List Byte}
    (h : Memory.Holds u.inb.buf 0 (requestFrame u.params cmd arg)) (hlen : u.inb.len = arg.length)
    (hfits : arg.length ≤ u.params.payloadMax) : FrameIsGood u := by
  obtain ⟨-, -, hbody, htrailer⟩ := readBytes_of_holds_request h
  refine ⟨hlen.trans_le hfits, ?_⟩
  rw [hlen, hbody]
  exact (congrArg beNat htrailer).trans (beNat_trailer _)

/-- Settles O46: `Received` holds of the bytes so far, from the magic on (`received_request`), and of the whole
frame it says what the buffer, the length and the total are. -/
theorem requestFrameRoundTrips : Obligations.RequestFrameRoundTrips := by
  intro s cmd arg hp hstate hpos hfits body frame
  obtain ⟨u, hpush, hu⟩ := received_request hstate hpos hp cmd hfits
  obtain ⟨hcmd, harg, -, -⟩ := readBytes_of_holds_request hu.bytes
  have hlength : frame.length = hdrLen s.params + arg.length + crcLen :=
    frameBytes_length s.params arg.length cmd arg
  have hpast : hdrLen s.params ≤ frame.length := by omega
  obtain ⟨-, hlen, hexp⟩ := hu.header_known hpast
  have hgood : FrameIsGood u := by
    refine frameIsGood_of_holds_request (cmd := cmd) (arg := arg) ?_ hlen ?_ <;> rw [hu.params]
    · exact hu.bytes
    · exact hfits
  exact ⟨u, hpush, hu.frame, hu.latch, hu.cursor, hexp.trans hlength.symm, hlen, hu.deadline, hu.bytes, hgood,
    (crcOk_iff u).mpr hgood, hcmd, harg⟩

end Sys2Proof.Machine
end

/-! # The dispatcher and the timeouts (spec/42_frame_assembler.md, R250 to R252; spec/44_reply_streamer.md, R314) -/

section
namespace Sys2Proof.Machine

open Sys2Proof.Config

/-! ## The dispatch of a queued frame (R251) -/

/-- `reply` composes the reply that its status and payload say (R311). -/
theorem replied_reply (st : Status) (data : List Byte) (s : State) :
    Replied (statusCode st) data s (reply st data s) := by
  have hcell := cell_reply st data s
  have hlen : (reply st data s).outb.len = (frameBytes s.params (statusCode st) data.length data).length := by
    rw [reply_outb, frameBytes_length]
    simp only [frameOverhead, hdrLen]
    omega
  refine ⟨by rw [reply_outb], by rw [reply_outb], hlen, by rw [reply_outb]; rfl, fun x => ?_, hcell 1#2 0x0#4,
    hcell 1#2 0x1#4, fun b a h => ?_⟩
  · rw [reply_outb, Memory.read_writeBytes]
    simp only [Nat.zero_le, true_and, Nat.zero_add, Nat.sub_zero]
    rfl
  · rw [hcell, if_neg fun ⟨hb, ha⟩ => h ⟨hb, .inr ha⟩, if_neg fun ⟨hb, ha⟩ => h ⟨hb, .inl ha⟩]

/-- Settles O6: the dispatcher's tests in their order (`slowDispatch_cases`), each in the words of the rule. -/
theorem slowDispatchAnswersInOrder : Obligations.SlowDispatchAnswersInOrder := by
  intro s rest hev hrun hq
  rw [step_onMcu hev rfl hrun]
  have hcrc := crcOk_iff { s with events := rest }
  have hopt := optOk_iff { s with events := rest }
  rcases slowDispatch_cases { s with events := rest } with
    ⟨hno, -⟩ | ⟨-, ⟨hlong, h⟩ | ⟨hfits, hbad, h⟩ | ⟨hgood, hbad, h⟩ | ⟨hfits, hgood, hallowed, h⟩⟩
  · exact absurd hq hno
  · refine ⟨reply .badlen [] { s with events := rest }, congrArg _ h, ?_⟩
    rw [if_pos hlong]
    exact ⟨replied_reply .badlen [] _, rfl⟩
  · refine ⟨reply .crc [] { s with events := rest }, congrArg _ h, ?_⟩
    rw [if_neg (Nat.not_lt.mpr hfits), if_pos (hcrc.not.mp (Bool.eq_false_iff.mp hbad))]
    exact ⟨replied_reply .crc [] _, rfl⟩
  · refine ⟨reply .unkcmd [] { s with events := rest }, congrArg _ h, ?_⟩
    rw [if_neg (Nat.not_lt.mpr (len_le_of_crcOk hgood)), if_neg (not_not.mpr (hcrc.mp hgood)),
      if_pos (hopt.not.mp (Bool.eq_false_iff.mp hbad))]
    exact ⟨replied_reply .unkcmd [] _, rfl⟩
  · refine ⟨execCmd { s with events := rest }, congrArg _ h, ?_⟩
    rw [if_neg (Nat.not_lt.mpr hfits), if_neg (not_not.mpr (hcrc.mp hgood)), if_neg (not_not.mpr (hopt.mp hallowed))]
    exact exec_decodeCmd { s with events := rest }

/-! ## The timeouts (R252, R314) -/

theorem inTimeoutEnabled_iff (s : State) :
    inTimeoutEnabled s = true ↔
      (s.inb.state = .accumulating ∨ s.inb.state = .headerKnown) ∧ s.inb.deadline < s.now := by
  simp [inTimeoutEnabled, hasElapsed]

/-- A frame that is stuck is discarded, with the diagnostic that says how far it had come (R252). -/
theorem inTimeout_of_enabled {s : State} (h : inTimeoutEnabled s = true) :
    inTimeout s =
      { s with
        inb := { s.inb with pos := 0, state := .idle, hi := 0 }
        diag := s.diag ++
          [{ received := s.inb.pos, expected := if s.inb.state = .headerKnown then some s.inb.expected else none }] } :=
  if_pos h

theorem inTimeout_of_disabled {s : State} (h : inTimeoutEnabled s = false) : inTimeout s = s :=
  if_neg (Bool.eq_false_iff.mp h)

/-- Settles O47: each timeout acts exactly when its engine is busy and its deadline has passed. -/
theorem timeoutsDiscardWhatIsStuck : Obligations.TimeoutsDiscardWhatIsStuck := by
  constructor
  · intro s rest hev hrun
    rw [step_onMcu hev rfl hrun]
    have hiff := inTimeoutEnabled_iff { s with events := rest }
    split
    · next h => exact congrArg _ (inTimeout_of_enabled (hiff.mpr h))
    · next h => rw [inTimeout_of_disabled (Bool.eq_false_iff.mpr (hiff.not.mpr h))]
  · intro s rest hev hrun
    rw [step_onMcu hev rfl hrun]
    rcases outTimeout_cases { s with events := rest } with ⟨hactive, hlate, h⟩ | ⟨hno, h⟩
    · rw [if_pos ⟨hactive, hlate⟩, h]
      exact ⟨_, rfl, cell_outFinish _ _ _, cell_outFinish _ _ _, fun b a hne => cell_setChannel_other hne _ _ _, rfl⟩
    · rw [if_neg hno, h]

end Sys2Proof.Machine
end

/-! # The commands (spec/43_commands.md)

A command composes its answer with `reply`, and `replied_reply` says what that is; what is left to each command is the
payload it answers with and the queue or store it changes. -/

section
namespace Sys2Proof.Machine

open Sys2Proof.Config

/-! ## The commands that answer with fixed bytes or with those of the request -/

/-- Settles O33: `exec` answers the state itself. -/
theorem nullComposesNoReply : Obligations.NullComposesNoReply := fun _ _ => ⟨rfl, rfl⟩

/-- Settles O34: the reply (OK, empty). -/
theorem nopAnswersOk : Obligations.NopAnswersOk := fun _ s =>
  ⟨rfl, rfl, runNop s, rfl, replied_reply .ok [] s, rfl⟩

/-- Settles O37: the reply (OK, `testPattern`), whose bytes are the statement's. -/
theorem testpattAnswersTheSequence : Obligations.TestpattAnswersTheSequence := fun _ s =>
  ⟨rfl, rfl, runTestpatt s, rfl, rfl, replied_reply .ok testPattern s⟩

/-- Settles O38: the reply (OK, the request's payload). -/
theorem loopbackEchoesThePayload : Obligations.LoopbackEchoesThePayload := fun _ s =>
  ⟨rfl, runLoopback s, rfl, rfl, replied_reply .ok (payload s) s⟩

/-- Settles O44: the reply (UNKCMD, empty). -/
theorem unknownAnswersUnkcmd : Obligations.UnknownAnswersUnkcmd := fun _ _ s _ =>
  ⟨rfl, rfl, runUnknown s, rfl, replied_reply .unkcmd [] s, rfl⟩

/-! ## ID (R274, R275) -/

/-- The fields of the ID reply in their order (R275). -/
def idFields (p : Params) : List (List Byte) :=
  [beBytes 2 p.idVersion0.toNat, beBytes 2 p.idVersion1.toNat, p.idDate.toList, p.idTime.toList, padTo 24 p.idSerial,
    beBytes 2 p.idFeatures.toNat, beBytes 2 protocolRev.toNat, padTo 16 p.boardName, List.replicate 32 0#8]

/-- The widths of the fields of the ID reply (R275). -/
def idWidths : List Nat := [2, 2, 4, 4, 24, 2, 2, 16, 32]

theorem idPayload_eq_flatten (p : Params) : idPayload p = (idFields p).flatten := by
  simp only [idPayload, idFields, List.flatten_cons, List.flatten_nil, List.append_assoc, List.append_nil]

theorem idFields_widths (p : Params) : (idFields p).map List.length = idWidths := by
  simp [idFields, idWidths]

/-- A field of the ID reply stands at the sum of the widths before it. -/
theorem idPayload_field {p : Params} {field : List Byte} (i : Nat) {off len : Nat}
    (hfield : (idFields p)[i]? = some field) (hoff : (idWidths.take i).sum = off)
    (hend : (idWidths.take (i + 1)).sum = off + len) : ((idPayload p).drop off).take len = field := by
  obtain ⟨hlt, hget⟩ := List.getElem?_eq_some_iff.mp hfield
  have hslice := List.drop_take_succ_flatten_eq_getElem (idFields p) i hlt
  rwa [hget, idFields_widths, hoff, hend, ← idPayload_eq_flatten, ← List.take_drop] at hslice

/-- `be` gives back the word whose bytes `BE` made, at the word's own width (R10). -/
theorem beNat_beBytes_toNat (n : Nat) (v : BitVec (8 * n)) : beNat (beBytes n v.toNat) = v.toNat := by
  rw [beNat_beBytes, show 256 = 2 ^ 8 from rfl, ← Nat.pow_mul]
  exact Nat.mod_eq_of_lt v.isLt

theorem padTo_of_length_le {n : Nat} {bytes : List Byte} (h : bytes.length ≤ n) :
    padTo n bytes = bytes ++ List.replicate (n - bytes.length) 0#8 := by
  rw [padTo, List.take_of_length_le h]

/-- Settles O35: each field stands at its offset (`idPayload_field`). -/
theorem idAnswersTheFixedLayout : Obligations.IdAnswersTheFixedLayout := by
  intro opt s hp
  obtain ⟨-, -, -, -, -, -, -, -, -, hserial, hboard, -⟩ := hp
  have hlen : (idPayload s.params).length = 88 := idPayload_length s.params
  refine ⟨rfl, runId s, idPayload s.params, rfl, replied_reply .ok _ s, rfl, hlen, ?version0, ?version1,
    idPayload_field 2 rfl rfl rfl, idPayload_field 3 rfl rfl rfl, ?serial, ?features, idPayload_field 6 rfl rfl rfl,
    ?board, ?zeros⟩
  case version0 => exact (congrArg beNat (idPayload_field 0 rfl rfl rfl)).trans (beNat_beBytes_toNat 2 _)
  case version1 => exact (congrArg beNat (idPayload_field 1 rfl rfl rfl)).trans (beNat_beBytes_toNat 2 _)
  case serial => exact (idPayload_field 4 rfl rfl rfl).trans (padTo_of_length_le hserial)
  case features => exact (congrArg beNat (idPayload_field 5 rfl rfl rfl)).trans (beNat_beBytes_toNat 2 _)
  case board => exact (idPayload_field 7 rfl rfl rfl).trans (padTo_of_length_le hboard)
  case zeros =>
    have hrest : ((idPayload s.params).drop 56).length ≤ 32 := by rw [List.length_drop, hlen]
    rw [← List.take_of_length_le hrest]
    exact idPayload_field 8 rfl rfl rfl

/-! ## UPTIME and TICK (R276, R47) -/

theorem tick_of_pos {ms us : Nat} (h : 0 < ms ∧ 0 < us) (s : State) :
    tick ms us s = { s with now := s.now + ms, uptimeUs := s.uptimeUs + BitVec.ofNat 64 us } := if_pos h

theorem tick_of_not_pos {ms us : Nat} (h : ¬ (0 < ms ∧ 0 < us)) (s : State) : tick ms us s = s := if_neg h

theorem uptimeUs_add_toNat (v : BitVec 64) (us : Nat) :
    (v + BitVec.ofNat 64 us).toNat = (v.toNat + us) % 2 ^ 64 := by
  rw [BitVec.toNat_add, BitVec.toNat_ofNat, Nat.add_mod_mod]

/-- Settles O36: the payload is the clock's 8 bytes, and TICK adds to the clock modulo its width. -/
theorem uptimeAnswersTheTime : Obligations.UptimeAnswersTheTime := by
  refine ⟨fun opt s => ⟨rfl, runUptime s, _, rfl, replied_reply .ok _ s, rfl, beBytes_length 8 _,
    beNat_beBytes_toNat 8 s.uptimeUs⟩, fun s ms us rest hevents => ?_⟩
  have hstep : step s = .next (tick ms us { s with events := rest }) := nextStep_cons hevents
  split
  · next hpos =>
    have htime := uptimeUs_add_toNat s.uptimeUs us
    rw [tick_of_pos hpos] at hstep
    refine ⟨_, hstep, rfl, htime, fun hfits => ?_⟩
    rw [Nat.mod_eq_of_lt hfits] at htime
    exact (Nat.lt_add_of_pos_right hpos.2).trans_eq htime.symm
  · next hzero => rw [hstep, tick_of_not_pos hzero]

/-! ## The console's queues (R280, R281, R399) -/

/-- CONSOLE fills the queue with its bytes as far as the capacity goes (R51). -/
theorem consoleOut_consOut_length (bytes : List Byte) (s : State) :
    (consoleOut bytes s).consOut.length =
      s.consOut.length + min (s.params.consOutCap - s.consOut.length) bytes.length := by
  rw [consoleOut, List.length_append, List.length_take]

/-- Settles O39: CONS_OUTPUT splits the queue where its reply ends, and CONSOLE splits its bytes where the room ends. -/
theorem consOutputDrainsTheQueue : Obligations.ConsOutputDrainsTheQueue := by
  constructor
  · intro opt s
    refine ⟨rfl, runConsOutput s, s.consOut.take (min s.consOut.length s.params.chunkMax), rfl,
      replied_reply .ok _ _, ?_, List.take_append_drop _ _, rfl⟩
    rw [List.length_take, Nat.min_eq_left (Nat.min_le_left _ _)]
  · intro s bytes rest hevents hrun ⟨_, hout⟩
    have hlength : (consoleOut bytes { s with events := rest }).consOut.length =
        s.consOut.length + min (s.params.consOutCap - s.consOut.length) bytes.length := consoleOut_consOut_length _ _
    refine ⟨_, _, _, step_onMcu hevents rfl hrun, rfl,
      (List.take_append_drop (s.params.consOutCap - s.consOut.length) bytes).symm, rfl, hlength.trans_le ?_,
      fun hfits => List.take_of_length_le ?_, fun hfills => hlength.trans ?_⟩ <;> omega

/-- The queue has room for the whole payload: it takes all of it (R281). -/
theorem runConsInput_of_room {s : State} (h : s.consIn.length + s.inb.len ≤ s.params.consInCap) :
    runConsInput s = reply .ok [] { s with consIn := s.consIn ++ payload s } :=
  if_pos (by rwa [payload, Memory.readBytes_length])

/-- The queue has no room for the whole payload: it takes none of it (R281). -/
theorem runConsInput_of_full {s : State} (h : ¬ s.consIn.length + s.inb.len ≤ s.params.consInCap) :
    runConsInput s = reply .fail [] s :=
  if_neg (by rwa [payload, Memory.readBytes_length])

/-- Settles O40: CONS_INPUT by its two cases, and CONSOLE splits the queue after the bytes it takes. -/
theorem consInputTakesAllOrNothing : Obligations.ConsInputTakesAllOrNothing := by
  refine ⟨fun opt s => ⟨rfl, runConsInput s, rfl, ?_⟩, fun s n rest hevents hrun =>
    ⟨_, s.consIn.take n, step_onMcu hevents rfl hrun, rfl, List.take_append_drop n s.consIn, List.length_take⟩⟩
  split
  · next hroom =>
    rw [runConsInput_of_room hroom]
    exact ⟨⟨replied_reply .ok [] _, rfl⟩, rfl⟩
  · next hfull =>
    rw [runConsInput_of_full hfull]
    exact ⟨⟨replied_reply .fail [] s, rfl⟩, rfl⟩

/-! ## The stores (R285 to R288) -/

/-- The big-endian number of two bytes (R10). -/
theorem beNat_pair (a b : Byte) : beNat [a, b] = 256 * a.toNat + b.toNat := by
  simp [beNat]

theorem offsetOf_eq {p : List Byte} (h : 2 ≤ p.length) :
    offsetOf p = 256 * (p.getD 0 0#8).toNat + (p.getD 1 0#8).toNat := by
  match p, h with
  | a :: b :: _, _ => exact beNat_pair a b

theorem countOf_eq {p : List Byte} (h : 4 ≤ p.length) :
    countOf p = 256 * (p.getD 2 0#8).toNat + (p.getD 3 0#8).toNat := by
  match p, h with
  | _ :: _ :: a :: b :: _, _ => exact beNat_pair a b

theorem dataOf_length (p : List Byte) : (dataOf p).length = p.length - 2 := List.length_drop

theorem dataOf_getD (p : List Byte) (i : Nat) : (dataOf p).getD i 0#8 = p.getD (i + 2) 0#8 := by
  simp [dataOf, List.getD_eq_getElem?_getD, Nat.add_comm]

theorem Memory.readBytes_getD (m : Memory) {a n i : Nat} (h : i < n) :
    (Memory.readBytes m a n).getD i 0#8 = Memory.read m (a + i) := by
  simp [Memory.readBytes_eq_map, List.getD_eq_getElem?_getD, h]

/-- All that SET can do to a store: nothing, for a short payload and for a range past its end, or the write of the data
at the offset (R285). -/
theorem setStore_cases (m : Memory) (size : Nat) (p : List Byte) :
    let off := 256 * (p.getD 0 0#8).toNat + (p.getD 1 0#8).toNat
    (p.length < 2 ∧ setStore m size p = (m, .badlen)) ∨
      (¬ p.length < 2 ∧ size < off + (p.length - 2) ∧ setStore m size p = (m, .badarg)) ∨
      (¬ p.length < 2 ∧ ¬ size < off + (p.length - 2) ∧ ∃ m', setStore m size p = (m', .ok) ∧
        ∀ x, Memory.read m' x =
          if off ≤ x ∧ x < off + (p.length - 2) then p.getD (x - off + 2) 0#8 else Memory.read m x) := by
  intro off
  by_cases hshort : p.length < 2
  · exact .inl ⟨hshort, if_pos hshort⟩
  have hoff : offsetOf p = off := offsetOf_eq (Nat.not_lt.mp hshort)
  have hset : setStore m size p = if size < off + (p.length - 2) then (m, .badarg)
      else (Memory.writeBytes m off (dataOf p), .ok) := by
    rw [setStore, if_neg hshort, hoff, dataOf_length]
  by_cases hpast : size < off + (p.length - 2)
  · exact .inr (.inl ⟨hshort, hpast, hset.trans (if_pos hpast)⟩)
  · refine .inr (.inr ⟨hshort, hpast, _, hset.trans (if_neg hpast), fun x => ?_⟩)
    rw [Memory.read_writeBytes, dataOf_length, dataOf_getD]

/-- The answer of SET for either store (R285, R287): `put` is the state with the store in its place, and `Frame` says
which fields a write may change. -/
theorem replied_setStore {s : State} {store : State → Memory} {put : Memory → State} {Frame : State → Prop}
    (size : Nat) (p : List Byte) (hput : put (store s) = s)
    (hreplied : ∀ st m, Replied (statusCode st) [] s (reply st [] (put m)))
    (hstore : ∀ m, store (reply .ok [] (put m)) = m) (hframe : ∀ m, Frame (reply .ok [] (put m))) :
    let off := 256 * (p.getD 0 0#8).toNat + (p.getD 1 0#8).toNat
    let t := reply (setStore (store s) size p).2 [] (put (setStore (store s) size p).1)
    if p.length < 2 then Replied 0x04#8 [] s t ∧ t = { s with bank := t.bank, outb := t.outb }
    else if size < off + (p.length - 2) then Replied 0x03#8 [] s t ∧ t = { s with bank := t.bank, outb := t.outb }
    else Replied 0x00#8 [] s t ∧ Frame t ∧
      ∀ x, Memory.read (store t) x =
        if off ≤ x ∧ x < off + (p.length - 2) then p.getD (x - off + 2) 0#8 else Memory.read (store s) x := by
  intro off t
  have hrefused : ∀ st u, u = reply st [] (put (store s)) →
      Replied (statusCode st) [] s u ∧ u = { s with bank := u.bank, outb := u.outb } := by
    rintro st u rfl
    rw [hput]
    exact ⟨replied_reply st [] s, rfl⟩
  rcases setStore_cases (store s) size p with ⟨hshort, h⟩ | ⟨hlong, hpast, h⟩ | ⟨hlong, hfits, m, h, hread⟩
  · rw [if_pos hshort]
    exact hrefused .badlen t (by simp only [t, h])
  · rw [if_neg hlong, if_pos hpast]
    exact hrefused .badarg t (by simp only [t, h])
  · rw [if_neg hlong, if_neg hfits, show t = reply .ok [] (put m) by simp only [t, h]]
    exact ⟨hreplied .ok m, hframe m, fun x => by rw [hstore, hread]⟩

/-- Settles O41: SET and SET_MAP are `cmd_set` on one store each. -/
theorem setStoresItsBytes : Obligations.SetStoresItsBytes := by
  intro opt s p off
  refine ⟨rfl, rfl, ⟨runSet s, rfl, ?cfg⟩, ⟨runSetMap s, rfl, ?map⟩⟩
  case cfg =>
    exact replied_setStore (store := State.cfg) (put := fun m => { s with cfg := m })
      (Frame := fun t => t = { s with bank := t.bank, outb := t.outb, cfg := t.cfg }) s.params.cfgSize p rfl
      (fun st m => replied_reply st [] { s with cfg := m }) (fun _ => rfl) (fun _ => rfl)
  case map =>
    exact replied_setStore (store := State.map) (put := fun m => { s with map := m })
      (Frame := fun t => t = { s with bank := t.bank, outb := t.outb, map := t.map }) s.params.mapSize p rfl
      (fun st m => replied_reply st [] { s with map := m }) (fun _ => rfl) (fun _ => rfl)

/-- All that GET can answer of a store (R286): the two refusals, or the bytes from the offset on. -/
theorem getStore_cases (m : Memory) (size chunkMax : Nat) (p : List Byte) :
    let off := 256 * (p.getD 0 0#8).toNat + (p.getD 1 0#8).toNat
    let cnt := 256 * (p.getD 2 0#8).toNat + (p.getD 3 0#8).toNat
    (p.length ≠ 4 ∧ getStore m size chunkMax p = (.badlen, [])) ∨
      (p.length = 4 ∧ size < off ∧ getStore m size chunkMax p = (.badarg, [])) ∨
      (p.length = 4 ∧ ¬ size < off ∧
        getStore m size chunkMax p = (.ok, Memory.readBytes m off (min cnt (min (size - off) chunkMax)))) := by
  intro off cnt
  by_cases hlen : p.length = 4
  · have hoff : offsetOf p = off := offsetOf_eq (by omega)
    have hcnt : countOf p = cnt := countOf_eq hlen.ge
    have hget : getStore m size chunkMax p = if size < off then (.badarg, [])
        else (.ok, Memory.readBytes m off (min cnt (min (size - off) chunkMax))) := by
      rw [getStore, if_neg (not_not.mpr hlen), hoff, hcnt, Nat.min_assoc]
    by_cases hpast : size < off
    · exact .inr (.inl ⟨hlen, hpast, hget.trans (if_pos hpast)⟩)
    · exact .inr (.inr ⟨hlen, hpast, hget.trans (if_neg hpast)⟩)
  · exact .inl ⟨hlen, if_pos hlen⟩

/-- The answer of GET for either store (R286, R288). -/
theorem replied_getStore (s : State) (m : Memory) (size : Nat) (p : List Byte) :
    let off := 256 * (p.getD 0 0#8).toNat + (p.getD 1 0#8).toNat
    let cnt := 256 * (p.getD 2 0#8).toNat + (p.getD 3 0#8).toNat
    let r := getStore m size s.params.chunkMax p
    if p.length ≠ 4 then Replied 0x04#8 [] s (reply r.1 r.2 s)
    else if size < off then Replied 0x03#8 [] s (reply r.1 r.2 s)
    else
      ∃ data, Replied 0x00#8 data s (reply r.1 r.2 s) ∧
        data.length = min cnt (min (size - off) s.params.chunkMax) ∧
        ∀ i, i < data.length → data.getD i 0#8 = Memory.read m (off + i) := by
  intro off cnt r
  rcases getStore_cases m size s.params.chunkMax p with ⟨hlen, h⟩ | ⟨hlen, hpast, h⟩ | ⟨hlen, hwithin, h⟩
  · rw [if_pos hlen, show r = _ from h]
    exact replied_reply .badlen [] s
  · rw [if_neg (not_not.mpr hlen), if_pos hpast, show r = _ from h]
    exact replied_reply .badarg [] s
  · rw [if_neg (not_not.mpr hlen), if_neg hwithin, show r = _ from h]
    have hcount := Memory.readBytes_length m off (min cnt (min (size - off) s.params.chunkMax))
    exact ⟨_, replied_reply .ok _ s, hcount, fun i hi => Memory.readBytes_getD m (hi.trans_eq hcount)⟩

/-- Settles O42: GET and GET_MAP are `cmd_get` on one store each. -/
theorem getReadsItsBytes : Obligations.GetReadsItsBytes := by
  intro opt s p off cnt
  refine ⟨rfl, rfl, ⟨runGet s, rfl, rfl, ?cfg⟩, ⟨runGetMap s, rfl, rfl, ?map⟩⟩
  case cfg => exact replied_getStore s s.cfg s.params.cfgSize p
  case map => exact replied_getStore s s.map s.params.mapSize p

/-! ## POLL_INPUT (R289) -/

/-- A payload that the table does not list is answered (NODATA, empty). -/
theorem envPollInput_unlisted {p : Params} {request : List Byte} (h : ∀ e ∈ p.pollTable, e.1 ≠ request) :
    envPollInput p request = (.nodata, []) := by
  have hnone : p.pollTable.find? (fun e => e.1 == request) = none :=
    List.find?_eq_none.mpr fun e he => by simpa using h e he
  rw [envPollInput, hnone]

/-- A payload that the table lists is answered with the data of its first entry. -/
theorem envPollInput_listed {p : Params} {request data : List Byte} {before after : List (List Byte × List Byte)}
    (htable : p.pollTable = before ++ (request, data) :: after) (h : ∀ e ∈ before, e.1 ≠ request) :
    envPollInput p request = (.ok, data) := by
  have hsome : p.pollTable.find? (fun e => e.1 == request) = some (request, data) :=
    List.find?_eq_some_iff_append.mpr ⟨by simp, before, after, htable, fun e he => by simpa using h e he⟩
  rw [envPollInput, hsome]

/-- What the environment answers is what the command replies. -/
theorem replied_runPollInput {s : State} {st : Status} {data : List Byte}
    (h : envPollInput s.params (payload s) = (st, data)) : Replied (statusCode st) data s (runPollInput s) := by
  have hrun : runPollInput s = reply st data s := by simp only [runPollInput, h]
  rw [hrun]
  exact replied_reply st data s

/-- Settles O43: the answer is the table's, by its two cases. -/
theorem pollInputAnswersTheEnvironment : Obligations.PollInputAnswersTheEnvironment := fun _ s =>
  ⟨rfl, runPollInput s, rfl, rfl,
    fun hnone => replied_runPollInput (st := .nodata) (envPollInput_unlisted hnone),
    fun _ _ _ htable hbefore => replied_runPollInput (st := .ok) (envPollInput_listed htable hbefore)⟩

end Sys2Proof.Machine
end

/-! # The reply streamer (spec/44_reply_streamer.md, R312, R313, R316) -/

section
namespace Sys2Proof.Machine

/-! ## One pair of reads, `RD 0x0` and `RD 0x1` in bank 1 (R143, R144) -/

/-- The state after RD_MSGHI. -/
def afterReadHi (s : State) : State := postReadMsghi (driveRead (s.cell msgBank msgHiAddr) s)

/-- The state after RD_MSGHI and RD_MSGLO. -/
def afterReadPair (s : State) : State :=
  postReadMsglo (driveRead ((afterReadHi s).cell msgBank msgLoAddr) (afterReadHi s))

@[simp] theorem cell_postReadMsghi (s : State) (b : BankNo) (a : Nibble) : (postReadMsghi s).cell b a = s.cell b a := by
  rcases postReadMsghi_cases s with ⟨-, -, h⟩ | ⟨-, h⟩ <;> rw [h]
  rfl

@[simp] theorem cell_afterReadHi (s : State) (b : BankNo) (a : Nibble) : (afterReadHi s).cell b a = s.cell b a := by
  rw [afterReadHi, cell_postReadMsghi, cell_driveRead]

@[simp] theorem afterReadHi_driven (s : State) : (afterReadHi s).bus.driven = some (s.cell msgBank msgHiAddr) := by
  rw [afterReadHi, postReadMsghi_bus, driveRead_driven]

@[simp] theorem afterReadPair_driven (s : State) : (afterReadPair s).bus.driven = some (s.cell msgBank msgLoAddr) := by
  rw [afterReadPair, postReadMsglo_bus, driveRead_driven, cell_afterReadHi]

/-- The first pair of reads returns the two channel cells as they stand before it. -/
theorem readPairs_succ (n : Nat) (s : State) :
    readPairs (n + 1) s =
      (readPairs n (afterReadPair s)).map
        (fun r => (s.cell msgBank msgHiAddr :: s.cell msgBank msgLoAddr :: r.1, r.2)) := by
  have h : readPairs (n + 1) s =
      (readPairs n (afterReadPair s)).map
        (fun r => ((afterReadHi s).bus.driven.toList ++ (afterReadPair s).bus.driven.toList ++ r.1, r.2)) := rfl
  rw [h, afterReadHi_driven, afterReadPair_driven]
  rfl

/-- At an even position of an active reply RD_MSGHI moves the cursor on by one nibble (R143). -/
theorem afterReadHi_outb {s : State} (hactive : s.outb.active = true) (heven : s.outb.pos % 2 = 0) :
    (afterReadHi s).outb = { s.outb with pos := s.outb.pos + 1 } := by
  rcases postReadMsghi_cases (driveRead (s.cell msgBank msgHiAddr) s) with ⟨-, -, h⟩ | ⟨hno, -⟩
  · rw [afterReadHi, h, driveRead_outb]
  · exact absurd ⟨hactive, heven⟩ hno

/-- From an even position of an active reply a pair of reads moves the cursor on by one byte: past the last byte the
reply ends, before that the next byte is loaded (R144). -/
theorem afterReadPair_cases {s : State} (hactive : s.outb.active = true) (heven : s.outb.pos % 2 = 0) :
    (s.outb.pos + 2 = 2 * s.outb.len ∧ ∃ u, afterReadPair s = outFinish u) ∨
      (s.outb.pos + 2 ≠ 2 * s.outb.len ∧
        ∃ u, u.outb = { s.outb with pos := s.outb.pos + 2 } ∧ afterReadPair s = outLoad u) := by
  have hcases := postReadMsglo_cases (driveRead ((afterReadHi s).cell msgBank msgLoAddr) (afterReadHi s))
  simp only [driveRead_outb, afterReadHi_outb hactive heven] at hcases
  rcases hcases with ⟨-, -, hlast, h⟩ | ⟨-, -, hmore, h⟩ | ⟨hno, -⟩
  · exact .inl ⟨hlast, _, h⟩
  · exact .inr ⟨hmore, _, rfl, h⟩
  · exact absurd ⟨hactive, by omega⟩ hno

/-! ## The reads of a whole reply (R316) -/

/-- While a reply is active the channel cells hold the byte that the cursor stands in (R46). -/
theorem ChannelShows.cells_of_active {s : State} (hs : ChannelShows s) (hactive : s.outb.active = true) {k : Nat}
    (hpos : s.outb.pos = 2 * k) :
    s.cell msgBank msgHiAddr = hiNibble (Memory.read s.outb.buf k) ∧
      s.cell msgBank msgLoAddr = loNibble (Memory.read s.outb.buf k) := by
  have hbyte : s.outb.pos / 2 = k := by omega
  rwa [ChannelShows, if_pos hactive, hbyte] at hs

/-- The reply is over and both channel cells read 0 (R313). -/
def ReplyOver (s : State) : Prop := s.outb.active = false ∧ s.cell 1#2 0x0#4 = 0#4 ∧ s.cell 1#2 0x1#4 = 0#4

theorem replyOver_outFinish (s : State) : ReplyOver (outFinish s) :=
  ⟨rfl, cell_outFinish s 1#2 0x0#4, cell_outFinish s 1#2 0x1#4⟩

/-- From byte `k` of a reply with `n` bytes left, `n` pairs of reads return the nibbles of these bytes in order. -/
theorem readPairs_from_byte (n : Nat) {k : Nat} {s : State} (hs : ChannelShows s) (hactive : s.outb.active = true)
    (hpos : s.outb.pos = 2 * k) (hlen : s.outb.len = k + n) :
    ∃ t, readPairs n s =
        some ((Memory.readBytes s.outb.buf k n).flatMap (fun b => [hiNibble b, loNibble b]), t) ∧
      (0 < n → ReplyOver t) := by
  induction n generalizing k s with
  | zero => exact ⟨s, rfl, fun h => absurd h (Nat.lt_irrefl 0)⟩
  | succ n ih =>
    obtain ⟨hhi, hlo⟩ := hs.cells_of_active hactive hpos
    rw [readPairs_succ, hhi, hlo]
    rcases afterReadPair_cases hactive (by omega) with ⟨hlast, u, hu⟩ | ⟨hmore, u, hout, hu⟩ <;> rw [hu]
    · obtain rfl : n = 0 := by omega
      exact ⟨outFinish u, rfl, fun _ => replyOver_outFinish u⟩
    · have hload : (outLoad u).outb = { s.outb with pos := s.outb.pos + 2 } := hout
      have hstill : u.outb.active = true := by rw [hout, hactive]
      obtain ⟨t, hreads, hover⟩ := ih (k := k + 1) (channelShows_outLoad hstill) hstill
        (by simp only [hload]; omega) (by simp only [hload]; omega)
      rw [hreads, hload]
      exact ⟨t, rfl, fun _ => hover (by omega)⟩

/-- Settles O21: the reads of a reply from its first byte on. -/
theorem replyReadsBackByteForByte : Obligations.ReplyReadsBackByteForByte := fun s hs hactive hpos =>
  readPairs_from_byte s.outb.len (k := 0) hs hactive hpos (Nat.zero_add _).symm

end Sys2Proof.Machine
end

/-! # The host transport (spec/45_host_transport.md, R330 to R343)

A step of a call is at most one bus cycle, served like any other, and then a change of the call's own context. The laws of
the host's cycles come first; after them the host as every other agent leaves it, and then the phases of a call. -/

section
namespace Sys2Proof.Machine

open Sys2Proof.Config

/-! ## The host's next step -/

theorem step_hostStep {s : State} {k : Nat} {tm : BusTiming} {rest : List Event} {c : HostCall}
    (hevents : s.events = .hostStep k tm :: rest) (hcall : s.host.calls[k]? = some c) :
    step s = callStep k c tm { s with events := rest } := by
  rw [step, nextStep_cons hevents, runEvent, hostStep]
  simp only [hcall]

theorem setCall_eq_of_host {u : State} {g : HostAgent} (h : u.host = g) (k : Nat) (c : HostCall) :
    setCall k c u = { u with host := { g with calls := g.calls.set k c } } := h ▸ rfl

theorem setCall_host_eq {u : State} {g : HostAgent} (h : u.host = g) (k : Nat) (c : HostCall) :
    (setCall k c u).host = { g with calls := g.calls.set k c } := h ▸ rfl

/-! ## The host's bus cycles (R72, R402) -/

theorem HandlerFrame.host {s t : State} (h : HandlerFrame s t) : t.host = s.host := by
  rw [HandlerFrame] at h
  rw [h]

/-- Served or not, a bus cycle answers a next state and leaves the host's own context alone (R402). -/
theorem busCycle_next (c : BusCycle) (s : State) : ∃ u, busCycle c s = .next u ∧ u.host = s.host := by
  rcases busCycle_cases c s with ⟨-, h⟩ | ⟨-, h⟩ <;> rw [h]
  · obtain ⟨u, hu⟩ := exec_next (decodeBus (cycleWord c s)) (openCycle c s)
    exact ⟨u, hu, (exec_handlerFrame hu).host⟩
  · exact ⟨_, rfl, rfl⟩

theorem busCycle_host {c : BusCycle} {s t : State} (h : busCycle c s = .next t) : t.host = s.host := by
  obtain ⟨u, hu, hhost⟩ := busCycle_next c s
  cases h.symm.trans hu
  exact hhost

/-- Whatever the read decodes to, the bus shows `driveRead` of the addressed cell (R140, R142 to R144). -/
theorem exec_decodeRead_bus (bank : BankNo) (a d : Nibble) (s : State) :
    ∃ u, exec (decodeRead bank a d) s = .next u ∧ u.bus = (driveRead (s.cell bank a) s).bus := by
  unfold decodeRead
  split
  · next h =>
    obtain ⟨rfl, rfl⟩ := h
    exact ⟨_, rfl, postReadMsghi_bus _⟩
  · split
    · next h =>
      obtain ⟨rfl, rfl⟩ := h
      exact ⟨_, rfl, postReadMsglo_bus _⟩
    · exact ⟨_, rfl, rfl⟩

section
variable {o : Host.Outcome State Fault Refusal} {s : State} {a d : Nibble} {tm : BusTiming}

/-- `RD a` while the block serves: the cycle is the one of the decode word, drives the addressed cell of the current bank,
and the host goes on with the nibble it sampled (R72, R73, R80). -/
theorem hostRead_served {g : Nibble → State → State} (ho : o = hostRead a tm s g) (henabled : s.handlersEnabled = true) :
    ∃ u v,
      exec (decode (.bus (busWord s.curBank false a 0#4))) (openCycle ⟨false, a, 0#4, tm⟩ s) = .next u ∧
        u.bus.driven = some (s.cell s.curBank a) ∧ u.bus.sampled = some v ∧ u.host = s.host ∧
        o = .next (g v u) := by
  have hcycle := busCycle_served ⟨false, a, 0#4, tm⟩ s henabled
  obtain ⟨u, hu, hbus⟩ := exec_decodeRead_bus s.curBank a 0#4 (openCycle ⟨false, a, 0#4, tm⟩ s)
  rw [← decode_busWord_read] at hu
  have hdriven : u.bus.driven = some (s.cell s.curBank a) := congrArg BusLines.driven hbus
  obtain ⟨v, hv⟩ : ∃ v, u.bus.sampled = some v := ⟨_, congrArg BusLines.sampled hbus⟩
  refine ⟨u, v, hu, hdriven, hv, busCycle_host (hcycle.trans hu), ?_⟩
  rw [ho, hostRead, hcycle.trans hu, andThen_next, hv, Option.getD_some]

/-- `WR a, d` while the block serves: the cycle is the one of the decode word (R72, R73). -/
theorem hostWrite_served {g : State → State} (ho : o = hostWrite a d tm s g) (henabled : s.handlersEnabled = true) :
    ∃ u, exec (decode (.bus (busWord s.curBank true a d))) (openCycle ⟨true, a, d, tm⟩ s) = .next u ∧
      u.host = s.host ∧ o = .next (g u) := by
  have hcycle := busCycle_served ⟨true, a, d, tm⟩ s henabled
  obtain ⟨u, hu⟩ := exec_next (decode (.bus (busWord s.curBank true a d))) (openCycle ⟨true, a, d, tm⟩ s)
  refine ⟨u, hu, busCycle_host (hcycle.trans hu), ?_⟩
  rw [ho, hostWrite, hcycle.trans hu, andThen_next]

/-! ## The mode, read, set and restored (R332) -/

/-- `RD 0xD` is a plain read of the current bank's `MODE` cell, with no action after it (R142). -/
theorem hostRead_mode {g : Nibble → State → State} (ho : o = hostRead modeAddr tm s g)
    (henabled : s.handlersEnabled = true) :
    ∃ u v, u = { s with bus := u.bus } ∧ u.bus.driven = some (s.cell s.curBank modeAddr) ∧ u.bus.sampled = some v ∧
      (tm.hold ≤ s.params.readPollCap → v = s.cell s.curBank modeAddr) ∧ o = .next (g v u) := by
  obtain ⟨u, v, hu, hdriven, hsampled, -, hread⟩ := hostRead_served ho henabled
  have hplain : rdRegAdmits s.curBank modeAddr = true := by simp [rdRegAdmits, modeAddr]
  rw [decode_busWord_read, decodeRead_rdReg hplain] at hu
  cases hu
  refine ⟨_, v, rfl, hdriven, hsampled, fun hprompt => ?_, hread⟩
  exact Option.some.inj (hsampled.symm.trans (driveRead_sampled_prompt _ hprompt))

/-- `WR 0xD, d` is `wr_mode(d)` in whatever bank is current (R102, R176). -/
theorem hostWrite_mode {g : State → State} (ho : o = hostWrite modeAddr d tm s g) (henabled : s.handlersEnabled = true) :
    ∃ u, o = .next (g u) ∧ u.host = s.host ∧ (∀ b, u.cell b 0xD#4 = d) ∧ u.curBank = modeBank d ∧
      u.timerEnabled = modeTimerEn d := by
  obtain ⟨u, hu, hhost, hwrite⟩ := hostWrite_served ho henabled
  rw [decode_busWord_write] at hu
  cases hu
  exact ⟨_, hwrite, hhost, fun b => (cell_setMode d _ b 0xD#4).trans (if_pos rfl), rfl, rfl⟩

end

/-- `MODE` is mirrored when one nibble stands in every bank and the two flags are its bits (R26 to R28). -/
theorem modeMirrored_of_cells {t : State} {d : Nibble} (hcells : ∀ b, t.cell b 0xD#4 = d)
    (hbank : t.curBank = modeBank d) (htimer : t.timerEnabled = modeTimerEn d) : ModeMirrored t := fun b => by
  simp only [modeAddr, hcells, hbank, htimer, and_self]

/-- What the host writes to select bank 1 says bank 1 and keeps the two enables (R332). -/
theorem selectNibble_fields (m : Nibble) :
    modeBank ((m &&& 0xC#4) ||| 1#4) = 1#2 ∧ modeTimerEn ((m &&& 0xC#4) ||| 1#4) = modeTimerEn m ∧
      ((m &&& 0xC#4) ||| 1#4).getLsbD 2 = m.getLsbD 2 := by
  revert m
  decide

/-- Settles O55: the read of the mode is a plain read, and the two writes are `wr_mode`. -/
theorem hostSelectsBankOneAndRestores : Obligations.HostSelectsBankOneAndRestores := by
  intro s k tm rest c hevents henabled hcall
  have hstep := step_hostStep hevents hcall
  refine ⟨fun hphase => ?_, fun hphase => ?_, fun hphase => ?_⟩ <;> simp only [callStep, hphase] at hstep
  · obtain ⟨u, v, hframe, hdriven, hsampled, hprompt, hread⟩ := hostRead_mode hstep henabled
    refine ⟨_, v, hread, hdriven, hsampled, hprompt, ?_⟩
    rw [hframe]
    rfl
  · obtain ⟨hbank1, htimer1, halarm1⟩ := selectNibble_fields c.savedMode
    obtain ⟨u, hwrite, -, hcells, hbank, htimer⟩ := hostWrite_mode hstep henabled
    refine ⟨_, hwrite, hbank.trans hbank1, hcells, modeMirrored_of_cells hcells hbank htimer,
      fun hmirror hsaved => ⟨?_, ?_⟩⟩
    · obtain ⟨-, -, hs⟩ := hmirror 0#2
      rw [hs, setCall_timerEnabled, htimer, htimer1, hsaved]
      rfl
    · rw [cell_setCall, hcells, halarm1, hsaved]
  · obtain ⟨u, hwrite, -, hcells, hbank, htimer⟩ := hostWrite_mode hstep henabled
    exact ⟨_, hwrite, hcells, modeMirrored_of_cells hcells hbank htimer⟩

/-! ## The wait and the magic (R335, R336) -/

/-- Settles O56: a poll is one read of the high nibble and then `polled`. -/
theorem hostPollIsBounded : Obligations.HostPollIsBounded := by
  refine ⟨fun s k tm rest c hevents henabled hcall hphase => ?_, fun s ms rest hevents => nextStep_cons hevents⟩
  have hstep := step_hostStep hevents hcall
  simp only [callStep, hphase] at hstep
  split
  · next hwait => rw [hstep, if_pos hwait]
  · next hover =>
    rw [if_neg hover] at hstep
    obtain ⟨u, v, -, hdriven, hsampled, hhost, hread⟩ := hostRead_served hstep henabled
    exact ⟨_, v, hread, hdriven, hsampled, setCall_host_eq hhost k _⟩

/-- Settles O57: in each of the three phases the step is one read and then `magicRead`. -/
theorem hostChecksTheMagic : Obligations.HostChecksTheMagic := by
  intro s k tm rest c hevents henabled hcall e he hphase
  have hstep : step s = hostRead e.2.1 tm { s with events := rest }
      (fun v => setCall k (magicRead e.2.2.1 v e.2.2.2 c)) := by
    rw [step_hostStep hevents hcall]
    simp only [List.mem_cons, List.not_mem_nil, or_false] at he
    rcases he with rfl | rfl | rfl <;> simp only [callStep, hphase] <;> rfl
  obtain ⟨u, v, -, hdriven, hsampled, hhost, hread⟩ := hostRead_served hstep henabled
  exact ⟨_, v, hread, hdriven, hsampled, setCall_host_eq hhost k _⟩

/-! ## The verdict (R337 to R339) -/

theorem replyComplete_iff (p : Params) (received : List Byte) :
    replyComplete p received = true ↔
      1 + p.lenWidth ≤ received.length ∧
        received.length = 1 + p.lenWidth + beNat ((received.drop 1).take p.lenWidth) + 4 := by
  rw [replyComplete, Bool.and_eq_true, decide_eq_true_eq, beq_iff_eq]
  rfl

section
variable {p : Params} (st : Byte) {data : List Byte} (trailer : List Byte)

/-- The length field that precedes a reply's payload says the payload's length (R105, R107). `requestBody` is the form of
both frames between the magic and the trailer: the status stands where a request has its command byte. -/
theorem replyLenField_body (h : data.length < 2 ^ (8 * p.lenWidth)) :
    replyLenField p (requestBody p st data ++ trailer) = data.length := by
  have hfield : ((requestBody p st data ++ trailer).drop 1).take p.lenWidth = beBytes p.lenWidth data.length := by
    rw [requestBody, List.cons_append, List.drop_one, List.tail_cons, List.append_assoc]
    exact List.take_left' (beBytes_length _ _)
  rw [replyLenField, hfield, beNat_beBytes, show 256 = 2 ^ 8 from rfl, ← Nat.pow_mul]
  exact Nat.mod_eq_of_lt h

theorem requestBody_payload : (requestBody p st data).drop (1 + p.lenWidth) = data := by
  rw [requestBody, Nat.add_comm, List.drop_succ_cons]
  exact List.drop_left' (beBytes_length _ _)

end

/-- Settles O58: the parts of the reply are at their offsets, and `concludeReply` makes its tests in the order of the
statement. -/
theorem hostJudgesTheReply : Obligations.HostJudgesTheReply := by
  intro p c st data trailer hfits htrailer body
  have hlen : replyLenField p (body ++ trailer) = data.length := replyLenField_body st trailer hfits
  have hlength : body.length = 1 + p.lenWidth + data.length := requestBody_length p st data
  have hbody : (body ++ trailer).take (1 + p.lenWidth + data.length) = body := List.take_left' hlength
  have hrest : (body ++ trailer).drop (1 + p.lenWidth + data.length) = trailer := List.drop_left' hlength
  have hdata : body.drop (1 + p.lenWidth) = data := requestBody_payload st
  refine ⟨(replyComplete_iff p _).mpr ?_, ?_⟩
  · have hfield : beNat (((body ++ trailer).drop 1).take p.lenWidth) = data.length := hlen
    rw [hfield, List.length_append, hlength, htrailer]
    omega
  · simp only [concludeReply, hlen, hbody, hrest, hdata]
    by_cases hlong : c.replyMax < data.length
    · rw [if_pos hlong, if_pos hlong]
      rfl
    · rw [if_neg hlong, if_neg hlong]
      by_cases hcrc : beNat trailer ≠ (crc32 p body).toNat
      · rw [if_pos hcrc, if_pos hcrc]
        rfl
      · rw [if_neg hcrc, if_neg hcrc]
        rfl

/-! ## The bytes of the request and the reply (R333, R334, R337, R340) -/

/-- After a sent byte (R334, R340), said of the bytes that follow it. -/
theorem byteSent_cons {c : HostCall} {b : Byte} {more : List Byte} (h : c.toSend = b :: more) (p : Params) (clock : Nat) :
    byteSent p clock c =
      if more ≠ [] then { c with phase := .putHi, toSend := more }
      else if c.cmd = 0x00#8 then finishTry (statusCode .ok) 0 [] { c with toSend := [] }
      else { c with phase := .poll, toSend := [], pollsLeft := p.hostPollMax, waitUntil := clock } := by
  cases more <;> simp only [byteSent, h, List.tail_cons] <;> rfl

theorem byteReceived_eq (p : Params) (lo : Nibble) (c : HostCall) :
    byteReceived p lo c =
      (let r := c.received ++ [BitVec.ofNat 8 (16 * c.rxHi.toNat + lo.toNat)]
       if 1 + p.lenWidth ≤ r.length ∧ r.length = 1 + p.lenWidth + beNat ((r.drop 1).take p.lenWidth) + 4 then
         concludeReply p r { c with received := r }
       else { c with phase := .getHi, received := r }) := by
  simp only [byteReceived, byteOf_eq_ofNat, replyComplete_iff]

/-- Settles O60: each of the five phases is one served cycle and then the change of the call's context. -/
theorem hostSendsAndReceivesBytes : Obligations.HostSendsAndReceivesBytes := by
  intro s k tm rest c hevents henabled hcall
  have hstep := step_hostStep hevents hcall
  refine ⟨fun hphase => ?_, fun b more hphase hsend => ?_, fun b more hphase hsend => ?_, fun hphase => ?_,
    fun hphase => ?_⟩ <;> simp only [callStep, hphase] at hstep
  · obtain ⟨u, -, hhost, hwrite⟩ := hostWrite_served hstep henabled
    exact ⟨_, hwrite, setCall_host_eq hhost k _⟩
  · obtain ⟨u, hu, hhost, hwrite⟩ := hostWrite_served hstep henabled
    rw [hsend, List.headD_cons] at hu
    rw [setCall_eq_of_host hhost] at hwrite
    exact ⟨u, hu, hwrite⟩
  · obtain ⟨u, hu, hhost, hwrite⟩ := hostWrite_served hstep henabled
    rw [hsend, List.headD_cons] at hu
    rw [setCall_eq_of_host hhost, byteSent_cons hsend] at hwrite
    exact ⟨u, hu, hwrite⟩
  · obtain ⟨u, v, hu, hdriven, hsampled, hhost, hread⟩ := hostRead_served hstep henabled
    rw [setCall_eq_of_host hhost] at hread
    exact ⟨u, v, hu, hdriven, hsampled, hread⟩
  · obtain ⟨u, v, hu, hdriven, hsampled, hhost, hread⟩ := hostRead_served hstep henabled
    rw [setCall_eq_of_host hhost, byteReceived_eq] at hread
    exact ⟨u, v, hu, hdriven, hsampled, hread⟩

/-! ## The host as the other agents leave it (R390, R402) -/

theorem slowDispatch_host (s : State) : (slowDispatch s).host = s.host := by
  rcases slowDispatch_cases s with ⟨-, h⟩ | ⟨-, ⟨-, h⟩ | ⟨-, -, h⟩ | ⟨-, -, h⟩ | ⟨-, -, -, h⟩⟩ <;> rw [h]
  case inr.inr.inr.inr => exact (execCmd_handlerFrame s).host
  all_goals rfl

theorem wakeup_host (s : State) : (wakeup s).host = s.host := by
  rcases wakeup_cases s with ⟨-, h⟩ | ⟨-, -, -, h⟩ | ⟨-, -, h⟩ <;> rw [h]
  rw [digitsOfHw_host]

theorem syncToHw_host (s : State) : (syncToHw s).host = s.host := by
  rcases syncToHw_cases s with ⟨-, h⟩ | ⟨-, h⟩ <;> rw [h]
  rcases syncCommit_cases s with ⟨f, -, -, hcommit⟩ | ⟨-, hcommit⟩ <;> rw [hcommit] <;> rfl

theorem inTimeout_host (s : State) : (inTimeout s).host = s.host := by
  rcases inTimeout_cases s with ⟨-, -, h⟩ | ⟨-, h⟩ <;> rw [h]

theorem outTimeout_host (s : State) : (outTimeout s).host = s.host := by
  rcases outTimeout_cases s with ⟨-, -, h⟩ | ⟨-, h⟩ <;> rw [h]
  exact outFinish_host s

theorem mainLoop_host (s : State) : (mainLoop s).host = s.host := by
  rcases mainLoop_cases s with ⟨-, h⟩ | ⟨-, -, h⟩ | ⟨-, -, -, h⟩ | ⟨-, -, -, -, h⟩ | ⟨-, -, -, -, h⟩ <;> rw [h]
  · exact slowDispatch_host s
  · exact syncToHw_host s
  · exact inTimeout_host s
  · exact outTimeout_host s

theorem boot_host (v : BootValues) (s : State) : (boot v s).host = s.host := by
  rcases boot_cases v s with ⟨-, h⟩ | ⟨-, h⟩ <;> rw [h]
  simp [bootSequence, bootProtocol, bootBank, loadBootValues]

theorem tick_host (ms us : Nat) (s : State) : (tick ms us s).host = s.host := by
  unfold tick
  split <;> rfl

theorem onMcu_host {f : State → State} {s : State} (hf : (f s).host = s.host) : (onMcu f s).host = s.host := by
  rcases onMcu_cases f s with ⟨-, h⟩ | ⟨-, h⟩ <;> rw [h]
  exact hf

/-! ## A call from one step to the next (R330, R331, R341) -/

/-- What any step does to a call whose context was `c`: the request stays, a further try is counted when it starts, a try
is followed by another only from its end and while one is left, and a returned call stays as it is. -/
structure CallAdvances (c d : HostCall) : Prop where
  cmd : d.cmd = c.cmd
  arg : d.arg = c.arg
  replyMax : d.replyMax = c.replyMax
  tries_kept : c.phase ≠ .retry → d.triesLeft = c.triesLeft
  try_started : d.triesLeft ≠ c.triesLeft → d.triesLeft = c.triesLeft - 1 ∧ d.phase = .readMode
  try_failed : d.phase = .retry → c.phase = .retry ∨ c.phase = .restoreMode ∧ 0 < c.triesLeft
  returned : c.phase = .returned → d = c

theorem CallAdvances.refl (c : HostCall) : CallAdvances c c :=
  ⟨rfl, rfl, rfl, fun _ => rfl, fun h => absurd rfl h, .inl, fun _ => rfl⟩

/-- The same try of the same request, not at its failed end. -/
structure SameTry (c d : HostCall) : Prop where
  cmd : d.cmd = c.cmd
  arg : d.arg = c.arg
  replyMax : d.replyMax = c.replyMax
  triesLeft : d.triesLeft = c.triesLeft
  phase_ne : d.phase ≠ .retry

theorem SameTry.advances {c d : HostCall} (h : SameTry c d) {running : HostPhase} (hphase : c.phase = running)
    (hrunning : running ≠ .returned) : CallAdvances c d where
  cmd := h.cmd
  arg := h.arg
  replyMax := h.replyMax
  tries_kept _ := h.triesLeft
  try_started hne := absurd h.triesLeft hne
  try_failed hretry := absurd hretry h.phase_ne
  returned hreturned := absurd (hphase.symm.trans hreturned) hrunning

theorem sameTry_finishTry (status : Byte) (n : Nat) (data : List Byte) (c : HostCall) :
    SameTry c (finishTry status n data c) := ⟨rfl, rfl, rfl, rfl, nofun⟩

theorem sameTry_concludeReply (p : Params) (received : List Byte) (c : HostCall) :
    SameTry c (concludeReply p received c) := by
  simp only [concludeReply]
  split
  · exact sameTry_finishTry _ _ _ c
  · split <;> exact sameTry_finishTry _ _ _ c

theorem sameTry_byteSent (p : Params) (clock : Nat) (c : HostCall) : SameTry c (byteSent p clock c) := by
  unfold byteSent
  split
  · exact ⟨rfl, rfl, rfl, rfl, nofun⟩
  · split <;> exact ⟨rfl, rfl, rfl, rfl, nofun⟩

theorem sameTry_polled {c : HostCall} (hphase : c.phase ≠ .retry) (p : Params) (clock : Nat) (v : Nibble) :
    SameTry c (polled p clock v c) := by
  unfold polled
  split
  · exact ⟨rfl, rfl, rfl, rfl, nofun⟩
  · split
    · exact ⟨rfl, rfl, rfl, rfl, nofun⟩
    · exact ⟨rfl, rfl, rfl, rfl, hphase⟩

theorem sameTry_magicRead {next : HostPhase} (hnext : next ≠ .retry) (want v : Nibble) (c : HostCall) :
    SameTry c (magicRead want v next c) := by
  unfold magicRead
  split
  · exact ⟨rfl, rfl, rfl, rfl, hnext⟩
  · exact sameTry_finishTry _ _ _ c

theorem sameTry_byteReceived (p : Params) (lo : Nibble) (c : HostCall) : SameTry c (byteReceived p lo c) := by
  simp only [byteReceived]
  split
  · obtain ⟨hcmd, harg, hmax, htries, hphase⟩ :=
      sameTry_concludeReply p (c.received ++ [byteOf c.rxHi lo]) { c with received := c.received ++ [byteOf c.rxHi lo] }
    exact ⟨hcmd, harg, hmax, htries, hphase⟩
  · exact ⟨rfl, rfl, rfl, rfl, nofun⟩

/-- The start of another try takes one of those that are left (R341). -/
theorem startTry_advances {c : HostCall} (h : c.phase = .retry) :
    CallAdvances c (startTry { c with triesLeft := c.triesLeft - 1 }) where
  cmd := rfl
  arg := rfl
  replyMax := rfl
  tries_kept hne := absurd h hne
  try_started _ := ⟨rfl, rfl⟩
  try_failed _ := .inl h
  returned hreturned := absurd (h.symm.trans hreturned) nofun

theorem isRetried_iff (status : Byte) :
    isRetried status = true ↔ status ∈ [0x0B#8, 0x09#8, 0x0A#8, 0x08#8, 0x07#8] := by
  simp [isRetried, statusCode, or_assoc]

/-- The end of a try with a result, which another follows only on a framing error (R341). -/
theorem endTry_some {c : HostCall} {r : HostResult} (h : c.result = some r) :
    endTry c = { c with
      phase :=
        if r.status ∈ [0x0B#8, 0x09#8, 0x0A#8, 0x08#8, 0x07#8] ∧ 0 < c.triesLeft then .retry else .returned } := by
  simp only [endTry, h, isRetried_iff]

theorem endTry_eq (c : HostCall) : endTry c = { c with phase := (endTry c).phase } := by
  unfold endTry
  split <;> rfl

theorem triesLeft_pos_of_endTry {c : HostCall} (h : (endTry c).phase = .retry) : 0 < c.triesLeft := by
  cases hresult : c.result with
  | none => simp [endTry, hresult] at h
  | some r =>
    rw [endTry_some hresult] at h
    by_contra hno
    simp [hno] at h

theorem endTry_advances {c : HostCall} (h : c.phase = .restoreMode) : CallAdvances c (endTry c) where
  cmd := by rw [endTry_eq]
  arg := by rw [endTry_eq]
  replyMax := by rw [endTry_eq]
  tries_kept _ := by rw [endTry_eq]
  try_started hne := absurd (by rw [endTry_eq]) hne
  try_failed hretry := .inr ⟨h, triesLeft_pos_of_endTry hretry⟩
  returned hreturned := absurd (h.symm.trans hreturned) nofun

/-! ## The calls from one step to the next -/

/-- From `s`, the step has changed at most the context of call `k`, which was `c`. -/
def CallTaken (k : Nat) (c : HostCall) (s t : State) : Prop :=
  ∃ d, CallAdvances c d ∧ t.host.calls = s.host.calls.set k d

theorem callTaken_hostRead {a : Nibble} {tm : BusTiming} {s t : State} {k : Nat} {c : HostCall}
    {f : Nibble → HostCall} (h : hostRead a tm s (fun v => setCall k (f v)) = .next t) (hf : ∀ v, CallAdvances c (f v)) :
    CallTaken k c s t := by
  obtain ⟨u, hu, rfl⟩ := hostRead_eq_next h
  exact ⟨_, hf _, by rw [setCall_host, busCycle_host hu]⟩

theorem callTaken_hostWrite {a d : Nibble} {tm : BusTiming} {s t : State} {k : Nat} {c c' : HostCall}
    (h : hostWrite a d tm s (setCall k c') = .next t) (hc : CallAdvances c c') : CallTaken k c s t := by
  obtain ⟨u, hu, rfl⟩ := hostWrite_eq_next h
  exact ⟨_, hc, by rw [setCall_host, busCycle_host hu]⟩

/-- A step of call `k` leaves all calls as they are, or takes this one on. -/
theorem callStep_calls {k : Nat} {c : HostCall} {tm : BusTiming} {s t : State} (h : callStep k c tm s = .next t) :
    t.host.calls = s.host.calls ∨ CallTaken k c s t := by
  cases hphase : c.phase <;> simp only [callStep, hphase] at h
  case returned => cases h; exact .inl rfl
  case retry => cases h; exact .inr ⟨_, startTry_advances hphase, rfl⟩
  case readMode | getHi =>
    exact .inr (callTaken_hostRead h fun v => SameTry.advances ⟨rfl, rfl, rfl, rfl, nofun⟩ hphase nofun)
  case selectBank | putHi =>
    exact .inr (callTaken_hostWrite h (SameTry.advances ⟨rfl, rfl, rfl, rfl, nofun⟩ hphase nofun))
  case putLo => exact .inr (callTaken_hostWrite h ((sameTry_byteSent _ _ c).advances hphase nofun))
  case poll =>
    have hne : c.phase ≠ .retry := hphase ▸ nofun
    split at h
    · cases h
      exact .inl rfl
    · exact .inr (callTaken_hostRead h fun v => (sameTry_polled hne _ _ v).advances hphase nofun)
  case magic2 | magic3 | magic4 =>
    exact .inr (callTaken_hostRead h fun v => (sameTry_magicRead (by decide) _ v c).advances hphase nofun)
  case getLo => exact .inr (callTaken_hostRead h fun v => (sameTry_byteReceived _ v c).advances hphase nofun)
  case restoreMode =>
    obtain ⟨u, hu, rfl⟩ := hostWrite_eq_next h
    exact .inr ⟨_, endTry_advances hphase, by rw [setHostIrq_host, setCall_host, busCycle_host hu]⟩

/-- All that a step does to the calls: nothing, a new one behind them, or one of them taken on. -/
def CallsAdvance (s t : State) : Prop :=
  t.host.calls = s.host.calls ∨ (∃ c, t.host.calls = s.host.calls ++ [c]) ∨
    ∃ k c, s.host.calls[k]? = some c ∧ CallTaken k c s t

theorem CallsAdvance.of_host {s t : State} (h : t.host = s.host) : CallsAdvance s t := .inl (by rw [h])

theorem hostStep_calls {k : Nat} {tm : BusTiming} {s t : State} (h : hostStep k tm s = .next t) : CallsAdvance s t := by
  unfold hostStep at h
  split at h
  · next c hcall => exact (callStep_calls h).imp_right fun htaken => .inr ⟨k, c, hcall, htaken⟩
  · cases h
    exact .inl rfl

theorem runEvent_calls {e : Event} {s t : State} (h : runEvent e s = .next t) : CallsAdvance s t := by
  cases e with
  | bus c => exact .of_host (busCycle_host h)
  | hostStep k tm => exact hostStep_calls h
  | hostCall cmd arg replyMax retry => cases h; exact .inr (.inl ⟨_, rfl⟩)
  | wakeup => cases h; exact .of_host (onMcu_host (wakeup_host s))
  | slowDispatch => cases h; exact .of_host (onMcu_host (slowDispatch_host s))
  | syncToHw => cases h; exact .of_host (onMcu_host (syncToHw_host s))
  | inTimeout => cases h; exact .of_host (onMcu_host (inTimeout_host s))
  | outTimeout => cases h; exact .of_host (onMcu_host (outTimeout_host s))
  | consoleOut | consoleIn => cases h; exact .of_host (onMcu_host rfl)
  | tick ms us => cases h; exact .of_host (tick_host ms us s)
  | boot v => cases h; exact .of_host (boot_host v s)
  | hwTick | hostTick | mcuReset => cases h; exact .inl rfl

theorem step_calls {s t : State} (h : step s = .next t) : CallsAdvance s t := by
  unfold step at h
  cases hevents : s.events with
  | nil =>
    cases h.symm.trans (nextStep_nil hevents)
    exact .of_host (onMcu_host (mainLoop_host s))
  | cons e rest =>
    rw [nextStep_cons hevents] at h
    exact (runEvent_calls h :)

/-- A call stands at its place from step to step, and advances or stays. -/
theorem CallsAdvance.call {s t : State} (h : CallsAdvance s t) {k : Nat} {c : HostCall}
    (hcall : s.host.calls[k]? = some c) : ∃ d, t.host.calls[k]? = some d ∧ CallAdvances c d := by
  obtain ⟨hlt, -⟩ := List.getElem?_eq_some_iff.mp hcall
  rcases h with heq | ⟨e, heq⟩ | ⟨j, e, hj, d, hadv, heq⟩ <;> rw [heq]
  · exact ⟨c, hcall, .refl c⟩
  · exact ⟨c, by rw [List.getElem?_append_left hlt, hcall], .refl c⟩
  · by_cases hjk : j = k
    · subst hjk
      cases hj.symm.trans hcall
      exact ⟨d, List.getElem?_set_self hlt, hadv⟩
    · exact ⟨c, by rw [List.getElem?_set_ne hjk, hcall], .refl c⟩

/-- Settles O59: the start of a call, the end of a try (`endTry_some`), the start of another, and what any step does to a
call (`step_calls`). -/
theorem hostRetriesOnlyFramingErrors : Obligations.HostRetriesOnlyFramingErrors := by
  refine ⟨fun s cmd arg replyMax retry rest hevents => ?_, fun s k tm rest c r hevents hcall hphase hresult => ?_,
    fun s k tm rest c hevents hcall hphase => ?_, fun s t k c hstep hcall => ?_⟩
  · exact ⟨_, newCall cmd arg replyMax retry, nextStep_cons hevents, rfl, rfl, rfl, rfl, rfl, rfl, rfl, rfl⟩
  · obtain ⟨u, hu, hhost⟩ := busCycle_next ⟨true, modeAddr, c.savedMode, tm⟩ { s with events := rest }
    have hstep := step_hostStep hevents hcall
    simp only [callStep, hphase, hostWrite, hu, andThen_next] at hstep
    exact ⟨_, hstep, by rw [setHostIrq_host, setCall_host, hhost, endTry_some hresult]⟩
  · rw [step_hostStep hevents hcall]
    simp only [callStep, hphase]
    rfl
  · obtain ⟨d, hd, hadv⟩ := (step_calls hstep).call hcall
    exact ⟨d, hd, hadv.cmd, hadv.arg, hadv.replyMax, hadv.tries_kept, hadv.try_started, hadv.try_failed, hadv.returned⟩

end Sys2Proof.Machine
end

/-! # Contexts, time and the absence of a stop (spec/60_exceptions.md, R374, R388, R390, R402) -/

section
namespace Sys2Proof.Machine

/-! ## What a bus cycle writes (R388) -/

/-- `t` is `s` but for the fields that `BUS_ISR` may write: the bank and its flags, the assembler, the reply and the
console queues. The data lines stand apart (`linesAfter`). -/
def IsrFrame (s t : State) : Prop :=
  t = { s with
        bank := t.bank, curBank := t.curBank, timerEnabled := t.timerEnabled, timeDirty := t.timeDirty
        ramDirty := t.ramDirty, inb := t.inb, outb := t.outb, consOut := t.consOut, consIn := t.consIn }

theorem IsrFrame.trans {s t u : State} (h : IsrFrame s t) (k : IsrFrame t u) : IsrFrame s u := by
  unfold IsrFrame at h k ⊢
  rw [k, h]

/-- The fast path has no command that writes a store (R249). -/
theorem execCmd_isrFrame {s : State} (h : isFast (decodeCmd (cmdByte s)) = true) : IsrFrame s (execCmd s) := by
  unfold execCmd
  cases hcmd : decodeCmd (cmdByte s) with
  | cmdConsInput =>
    simp only [runConsInput]
    split <;> rfl
  | cmdSet | cmdSetMap => simp [hcmd, isFast] at h
  | _ => rfl

theorem complete_isrFrame (s : State) : IsrFrame s (complete s) := by
  rcases complete_cases s with ⟨hfast, h⟩ | ⟨-, h⟩ <;> rw [h]
  · obtain ⟨-, hcmd⟩ := Bool.and_eq_true_iff.mp hfast
    exact (execCmd_isrFrame hcmd).trans rfl
  · rfl

theorem asmPush_isrFrame (b : Byte) (s : State) : IsrFrame s (asmPush b s) := by
  rcases asmPush_cases b s with ⟨-, h⟩ | ⟨-, -, h⟩ | ⟨-, -, u, hu, hpush⟩
  · rw [h]
    rfl
  · rw [h, magicPhase_frame]
    rfl
  · have hstored : IsrFrame s u := by rw [hu]; split <;> rfl
    rcases hpush with ⟨-, -, h⟩ | ⟨-, h⟩ <;> rw [h]
    · exact hstored.trans (complete_isrFrame u)
    · exact hstored

theorem exec_decodeWrite_isrFrame {bank : BankNo} {a d : Nibble} {s t : State}
    (h : exec (decodeWrite bank a d) s = .next t) : IsrFrame s t := by
  rcases exec_decodeWrite_cases bank a d s with e | e | e | e | e | ⟨-, e⟩ <;> cases h.symm.trans e
  · rfl
  · rfl
  · rw [resetAction_frame]
    rfl
  · rfl
  · exact IsrFrame.trans (t := { s with inb := { s.inb with hi := 0 } }) rfl (asmPush_isrFrame _ _)
  · rw [wrCell_eq]
    rfl

theorem postReadMsghi_isrFrame (s : State) : IsrFrame s (postReadMsghi s) := by
  rcases postReadMsghi_cases s with ⟨-, -, h⟩ | ⟨-, h⟩ <;> rw [h] <;> rfl

theorem postReadMsglo_isrFrame (s : State) : IsrFrame s (postReadMsglo s) := by
  rcases postReadMsglo_cases s with ⟨-, -, -, h⟩ | ⟨-, -, -, h⟩ | ⟨-, h⟩ <;> rw [h] <;> rfl

theorem exec_decodeRead_isrFrame {bank : BankNo} {a d : Nibble} {s t : State}
    (h : exec (decodeRead bank a d) s = .next t) : IsrFrame (driveRead (s.cell bank a) s) t := by
  unfold decodeRead at h
  split_ifs at h with hhi hlo <;> cases h
  · obtain ⟨rfl, rfl⟩ := hhi
    exact postReadMsghi_isrFrame _
  · obtain ⟨rfl, rfl⟩ := hlo
    exact postReadMsglo_isrFrame _
  · rfl

/-- The data lines after a cycle (R72, R80, R414): a served read drives the addressed cell of the current bank. -/
def linesAfter (c : BusCycle) (s : State) : BusLines :=
  if c.write = false ∧ s.handlersEnabled = true then (driveRead (s.cell s.curBank c.a) (openCycle c s)).bus
  else (unservedCycle c s).bus

/-- All that a bus cycle writes: the lines, and what `BUS_ISR` may write. -/
theorem busCycle_isrFrame {c : BusCycle} {s t : State} (h : busCycle c s = .next t) :
    IsrFrame { s with bus := linesAfter c s } t := by
  unfold linesAfter
  rcases busCycle_cases c s with ⟨hrun, -⟩ | ⟨hstopped, e⟩
  · rw [busCycle_served c s hrun, cycleWord] at h
    cases hw : c.write <;> rw [hw] at h
    · rw [decode_busWord_read] at h
      rw [if_pos ⟨rfl, hrun⟩]
      exact exec_decodeRead_isrFrame h
    · rw [decode_busWord_write] at h
      rw [if_neg (by simp), unservedCycle, if_pos hw]
      exact exec_decodeWrite_isrFrame h
  · cases h.symm.trans e
    rw [if_neg (by simp [hstopped])]
    rfl

theorem busCycle_bus {c : BusCycle} {s t : State} (h : busCycle c s = .next t) : t.bus = linesAfter c s := by
  have hframe := busCycle_isrFrame h
  rw [IsrFrame] at hframe
  rw [hframe]

/-! ## What is left to the main loop (R388) -/

/-- The two stores, the backup and the clock stand as they were: what only the main loop writes. -/
structure MainLoopDataKept (s t : State) : Prop where
  cfg : t.cfg = s.cfg
  map : t.map = s.map
  nv : t.nv = s.nv
  hw : t.hw = s.hw

theorem busCycle_mainLoopDataKept {c : BusCycle} {s t : State} (h : busCycle c s = .next t) :
    MainLoopDataKept s t := by
  have hframe := busCycle_isrFrame h
  rw [IsrFrame] at hframe
  rw [hframe]
  exact ⟨rfl, rfl, rfl, rfl⟩

theorem hostStep_mainLoopDataKept {k : Nat} {tm : BusTiming} {s t : State} (h : hostStep k tm s = .next t) :
    MainLoopDataKept s t := by
  rcases hostStep_eq_next h with e | ⟨cyc, u, hu, e⟩ <;> rw [e]
  · exact ⟨rfl, rfl, rfl, rfl⟩
  · obtain ⟨hcfg, hmap, hnv, hhw⟩ := busCycle_mainLoopDataKept hu
    exact ⟨hcfg, hmap, hnv, hhw⟩

theorem wakeup_mainLoopDataKept (s : State) : MainLoopDataKept s (wakeup s) := by
  rcases wakeup_cases s with ⟨-, h⟩ | ⟨-, -, -, h⟩ | ⟨-, -, h⟩ <;> rw [h]
  · exact ⟨rfl, rfl, rfl, rfl⟩
  · rw [digitsOfHw_eq]
    exact ⟨rfl, rfl, rfl, rfl⟩
  · exact ⟨rfl, rfl, rfl, rfl⟩

theorem onMcu_mainLoopDataKept {f : State → State} {s : State} (hf : MainLoopDataKept s (f s)) :
    MainLoopDataKept s (onMcu f s) := by
  rcases onMcu_cases f s with ⟨-, h⟩ | ⟨-, h⟩ <;> rw [h]
  · exact hf
  · exact ⟨rfl, rfl, rfl, rfl⟩

/-! ## The host's own steps (R390, R402) -/

/-- The steps of the agent HOST beyond the single bus cycle. -/
def IsHostEvent (e : Event) : Prop :=
  (∃ k tm, e = .hostStep k tm) ∨ (∃ cmd arg rm retry, e = .hostCall cmd arg rm retry) ∨ ∃ ms, e = .hostTick ms

theorem runEvent_host {e : Event} {s t : State} (h : runEvent e s = .next t) : t.host = s.host ∨ IsHostEvent e := by
  cases e with
  | hostStep k tm => exact .inr (.inl ⟨k, tm, rfl⟩)
  | hostCall cmd arg rm retry => exact .inr (.inr (.inl ⟨cmd, arg, rm, retry, rfl⟩))
  | hostTick ms => exact .inr (.inr (.inr ⟨ms, rfl⟩))
  | bus c => exact .inl (busCycle_host h)
  | wakeup => cases h; exact .inl (onMcu_host (wakeup_host s))
  | slowDispatch => cases h; exact .inl (onMcu_host (slowDispatch_host s))
  | syncToHw => cases h; exact .inl (onMcu_host (syncToHw_host s))
  | inTimeout => cases h; exact .inl (onMcu_host (inTimeout_host s))
  | outTimeout => cases h; exact .inl (onMcu_host (outTimeout_host s))
  | consoleOut | consoleIn => cases h; exact .inl (onMcu_host rfl)
  | tick ms us => cases h; exact .inl (tick_host ms us s)
  | boot v => cases h; exact .inl (boot_host v s)
  | hwTick | mcuReset => cases h; exact .inl rfl

/-- A step that changes the host is one of the host's own on the list. -/
theorem step_host_cases {s t : State} (h : step s = .next t) :
    t.host = s.host ∨ ∃ e rest, s.events = e :: rest ∧ IsHostEvent e := by
  unfold step at h
  cases hevents : s.events with
  | nil =>
    cases h.symm.trans (nextStep_nil hevents)
    exact .inl (onMcu_host (mainLoop_host s))
  | cons e rest =>
    rw [nextStep_cons hevents] at h
    exact (runEvent_host h).imp_right fun he => ⟨e, rest, rfl, he⟩

/-- The host finds the same after both: its own context and the lines. -/
def SameToHost (t u : State) : Prop := u.host = t.host ∧ u.bus = t.bus

theorem SameToHost.setCall {t u : State} (h : SameToHost t u) (k : Nat) (c : HostCall) :
    SameToHost (setCall k c t) (setCall k c u) := by
  obtain ⟨hhost, hbus⟩ := h
  exact ⟨by rw [setCall_host, setCall_host, hhost], hbus⟩

theorem SameToHost.setHostIrq {t u : State} (h : SameToHost t u) (on : Bool) :
    SameToHost (setHostIrq on t) (setHostIrq on u) := by
  obtain ⟨hhost, hbus⟩ := h
  exact ⟨by rw [setHostIrq_host, setHostIrq_host, hhost], hbus⟩

/-- Both outcomes are next states, and the same to the host. -/
def AnswerAlike (o o' : Host.Outcome State Fault Refusal) : Prop :=
  ∃ t u, o = .next t ∧ o' = .next u ∧ SameToHost t u

theorem answerAlike_next {t u : State} (h : SameToHost t u) : AnswerAlike (.next t) (.next u) := ⟨t, u, rfl, rfl, h⟩

/-- A bus cycle does the same to the host at any `now` (R390). -/
theorem busCycle_now (c : BusCycle) (s : State) (n : Nat) :
    AnswerAlike (busCycle c s) (busCycle c { s with now := n }) := by
  obtain ⟨t, ht, hthost⟩ := busCycle_next c s
  obtain ⟨u, hu, huhost⟩ := busCycle_next c { s with now := n }
  refine ⟨t, u, ht, hu, huhost.trans hthost.symm, ?_⟩
  calc u.bus = linesAfter c { s with now := n } := busCycle_bus hu
    _ = linesAfter c s := rfl
    _ = t.bus := (busCycle_bus ht).symm

section
variable (a d : Nibble) (tm : BusTiming) (s : State) (n : Nat)

theorem hostRead_now {g : Nibble → State → State} (hg : ∀ v t u, SameToHost t u → SameToHost (g v t) (g v u)) :
    AnswerAlike (hostRead a tm s g) (hostRead a tm { s with now := n } g) := by
  obtain ⟨t, u, ht, hu, hhost, hbus⟩ := busCycle_now ⟨false, a, 0#4, tm⟩ s n
  rw [hostRead, hostRead, ht, hu, andThen_next, andThen_next, hbus]
  exact answerAlike_next (hg _ t u ⟨hhost, hbus⟩)

theorem hostWrite_now {g : State → State} (hg : ∀ t u, SameToHost t u → SameToHost (g t) (g u)) :
    AnswerAlike (hostWrite a d tm s g) (hostWrite a d tm { s with now := n } g) := by
  obtain ⟨t, u, ht, hu, hsame⟩ := busCycle_now ⟨true, a, d, tm⟩ s n
  rw [hostWrite, hostWrite, ht, hu, andThen_next, andThen_next]
  exact answerAlike_next (hg t u hsame)

/-- In every phase a step of a call answers, and does the same to the host at any `now`. -/
theorem callStep_now (k : Nat) (c : HostCall) :
    AnswerAlike (callStep k c tm s) (callStep k c tm { s with now := n }) := by
  cases hphase : c.phase <;> simp only [callStep, hphase]
  case returned | retry => exact answerAlike_next ⟨rfl, rfl⟩
  case readMode | magic2 | magic3 | magic4 | getHi | getLo =>
    exact hostRead_now _ tm s n fun v t u h => h.setCall k _
  case selectBank | putHi | putLo => exact hostWrite_now _ _ tm s n fun t u h => h.setCall k _
  case poll =>
    split
    · exact answerAlike_next ⟨rfl, rfl⟩
    · exact hostRead_now _ tm s n fun v t u h => h.setCall k _
  case restoreMode => exact hostWrite_now _ _ tm s n fun t u h => (h.setCall k _).setHostIrq true

theorem hostStep_now (k : Nat) : AnswerAlike (hostStep k tm s) (hostStep k tm { s with now := n }) := by
  unfold hostStep
  cases s.host.calls[k]? with
  | some c => exact callStep_now tm s n k c
  | none => exact answerAlike_next ⟨rfl, rfl⟩

end

/-- Settles O9: the frame of an instruction (`exec_handlerFrame`), what a bus cycle, a wakeup and a step of the host
leave to the main loop, the steps that change the host, and the host at any `now` (`hostStep_now`). -/
theorem handlersNeverWriteClockOrStores : Obligations.HandlersNeverWriteClockOrStores := by
  refine ⟨fun i s t h => ?_, fun s t e rest hevents he h => ?_, fun s t h hne => ?_,
    fun s t k tm rest n hevents h => ?_⟩
  · have hframe := exec_handlerFrame h
    rw [HandlerFrame] at hframe
    rw [hframe]
    exact ⟨rfl, rfl, rfl, rfl, rfl, rfl, rfl, rfl, rfl, rfl⟩
  · rw [step, nextStep_cons hevents] at h
    have hkept : MainLoopDataKept { s with events := rest } t := by
      rcases he with ⟨c, rfl⟩ | rfl | ⟨k, tm, rfl⟩
      · exact busCycle_mainLoopDataKept h
      · cases h
        exact onMcu_mainLoopDataKept (wakeup_mainLoopDataKept _)
      · exact hostStep_mainLoopDataKept h
    exact ⟨hkept.cfg, hkept.map, hkept.nv, hkept.hw⟩
  · exact (step_host_cases h).resolve_left hne
  · obtain ⟨t', u, ht, hu, hsame⟩ := hostStep_now tm { s with events := rest } n k
    rw [step, nextStep_cons hevents] at h
    cases ht.symm.trans h
    exact ⟨u, (nextStep_cons (s := { s with now := n }) hevents).trans hu, hsame⟩

end Sys2Proof.Machine
end

/-! # No step stops, and the machine comes to rest (spec/60_exceptions.md, R374; spec/20_memory.md, R84) -/

section
namespace Sys2Proof.Machine

/-! ## Every step answers (R374) -/

theorem hostStep_next (k : Nat) (tm : BusTiming) (s : State) : ∃ t, hostStep k tm s = .next t := by
  obtain ⟨t, -, ht, -⟩ := hostStep_now tm s s.now k
  exact ⟨t, ht⟩

theorem runEvent_next (e : Event) (s : State) : ∃ t, runEvent e s = .next t := by
  cases e with
  | bus c =>
    obtain ⟨t, ht, -⟩ := busCycle_next c s
    exact ⟨t, ht⟩
  | hostStep k tm => exact hostStep_next k tm s
  | _ => exact ⟨_, rfl⟩

theorem step_next (s : State) : ∃ t, step s = .next t := by
  cases hevents : s.events with
  | nil => exact ⟨_, nextStep_nil hevents⟩
  | cons e rest =>
    obtain ⟨t, ht⟩ := runEvent_next e { s with events := rest }
    exact ⟨t, (nextStep_cons hevents).trans ht⟩

/-! ## What no agent on the MCU writes -/

/-- The time, the MCU's running and the list of steps stand as they were. -/
structure McuFrame (s t : State) : Prop where
  now : t.now = s.now
  handlersEnabled : t.handlersEnabled = s.handlersEnabled
  events : t.events = s.events

theorem McuFrame.refl (s : State) : McuFrame s s := ⟨rfl, rfl, rfl⟩

theorem HandlerFrame.mcuFrame {s t : State} (h : HandlerFrame s t) : McuFrame s t := by
  rw [HandlerFrame] at h
  rw [h]
  exact ⟨rfl, rfl, rfl⟩

theorem slowDispatch_handlerFrame (s : State) : HandlerFrame s (slowDispatch s) := by
  rcases slowDispatch_cases s with ⟨-, h⟩ | ⟨-, ⟨-, h⟩ | ⟨-, -, h⟩ | ⟨-, -, h⟩ | ⟨-, -, -, h⟩⟩ <;> rw [h]
  case inr.inr.inr.inr => exact (execCmd_handlerFrame s).trans rfl
  all_goals rfl

theorem syncToHw_mcuFrame (s : State) : McuFrame s (syncToHw s) := by
  rcases syncToHw_cases s with ⟨-, h⟩ | ⟨-, h⟩ <;> rw [h]
  · rw [syncCommit_eq]
    exact ⟨rfl, rfl, rfl⟩
  · exact .refl s

theorem inTimeout_mcuFrame (s : State) : McuFrame s (inTimeout s) := by
  rcases inTimeout_cases s with ⟨-, -, h⟩ | ⟨-, h⟩ <;> rw [h]
  · exact ⟨rfl, rfl, rfl⟩
  · exact .refl s

theorem outTimeout_mcuFrame (s : State) : McuFrame s (outTimeout s) := by
  rcases outTimeout_cases s with ⟨-, -, h⟩ | ⟨-, h⟩ <;> rw [h]
  · exact ⟨rfl, rfl, rfl⟩
  · exact .refl s

theorem wakeup_mcuFrame (s : State) : McuFrame s (wakeup s) := by
  rcases wakeup_cases s with ⟨-, h⟩ | ⟨-, -, -, h⟩ | ⟨-, -, h⟩ <;> rw [h]
  · exact .refl s
  · rw [digitsOfHw_eq]
    exact ⟨rfl, rfl, rfl⟩
  · exact ⟨rfl, rfl, rfl⟩

theorem mainLoop_mcuFrame (s : State) : McuFrame s (mainLoop s) := by
  rcases mainLoop_cases s with ⟨-, h⟩ | ⟨-, -, h⟩ | ⟨-, -, -, h⟩ | ⟨-, -, -, -, h⟩ | ⟨-, -, -, -, h⟩ <;> rw [h]
  · exact (slowDispatch_handlerFrame s).mcuFrame
  · exact syncToHw_mcuFrame s
  · exact inTimeout_mcuFrame s
  · exact outTimeout_mcuFrame s
  · exact .refl s

theorem onMcu_mcuFrame {f : State → State} {s : State} (hf : McuFrame s (f s)) : McuFrame s (onMcu f s) := by
  rcases onMcu_cases f s with ⟨-, h⟩ | ⟨-, h⟩ <;> rw [h]
  · exact hf
  · exact .refl s

/-! ## The list of steps -/

theorem busCycle_events {c : BusCycle} {s t : State} (h : busCycle c s = .next t) : t.events = s.events := by
  have hframe := busCycle_isrFrame h
  rw [IsrFrame] at hframe
  rw [hframe]

theorem hostStep_events {k : Nat} {tm : BusTiming} {s t : State} (h : hostStep k tm s = .next t) :
    t.events = s.events := by
  rcases hostStep_eq_next h with e | ⟨cyc, u, hu, e⟩ <;> rw [e]
  exact (busCycle_events hu :)

theorem boot_events (v : BootValues) (s : State) : (boot v s).events = s.events := by
  rcases boot_cases v s with ⟨-, h⟩ | ⟨-, h⟩ <;> rw [h]
  simp [bootSequence, bootProtocol, bootBank, loadBootValues]

/-- No step adds to the list or takes another one from it. -/
theorem runEvent_events {e : Event} {s t : State} (h : runEvent e s = .next t) : t.events = s.events := by
  cases e with
  | bus c => exact busCycle_events h
  | hostStep k tm => exact hostStep_events h
  | wakeup => cases h; exact (onMcu_mcuFrame (wakeup_mcuFrame s)).events
  | slowDispatch => cases h; exact (onMcu_mcuFrame (slowDispatch_handlerFrame s).mcuFrame).events
  | syncToHw => cases h; exact (onMcu_mcuFrame (syncToHw_mcuFrame s)).events
  | inTimeout => cases h; exact (onMcu_mcuFrame (inTimeout_mcuFrame s)).events
  | outTimeout => cases h; exact (onMcu_mcuFrame (outTimeout_mcuFrame s)).events
  | consoleOut | consoleIn => cases h; exact (onMcu_mcuFrame ⟨rfl, rfl, rfl⟩).events
  | tick ms us => cases h; unfold tick; split <;> rfl
  | boot v => cases h; exact boot_events v s
  | hwTick | hostCall | hostTick | mcuReset => cases h; rfl

/-! ## Runs -/

theorem run_succ {s t : State} (h : step s = .next t) (n : Nat) :
    Host.Core.run core (n + 1) s = Host.Core.run core n t := by
  have hcore : core.step s = .next t := h
  simp only [Host.Core.run, hcore]

theorem run_add {m : Nat} {s t : State} (h : Host.Core.run core m s = .next t) (n : Nat) :
    Host.Core.run core (m + n) s = Host.Core.run core n t := by
  induction m generalizing s with
  | zero =>
    cases h
    rw [Nat.zero_add]
  | succ m ih =>
    obtain ⟨u, hu⟩ := step_next s
    rw [run_succ hu] at h
    rw [Nat.succ_add, run_succ hu, ih h]

/-- As many steps as are listed empty the list. -/
theorem run_listed {l : List Event} {s : State} (h : s.events = l) :
    ∃ t, Host.Core.run core l.length s = .next t ∧ t.events = [] := by
  induction l generalizing s with
  | nil => exact ⟨s, rfl, h⟩
  | cons e rest ih =>
    obtain ⟨u, hu⟩ := runEvent_next e { s with events := rest }
    obtain ⟨t, ht, hempty⟩ := ih (runEvent_events hu)
    exact ⟨t, (run_succ ((nextStep_cons h).trans hu) rest.length).trans ht, hempty⟩

/-! ## The dispatch of a queued frame -/

/-- A command changes at most the channel cells, the reply, the queues and the stores. -/
theorem Answered.frame {s u : State} (h : Answered s u) :
    u = { s with
      bank := u.bank, outb := u.outb, consOut := u.consOut, consIn := u.consIn, cfg := u.cfg, map := u.map } := by
  cases h with
  | silent => rfl
  | @replied u data st heffect =>
    exact congrArg (fun v : State => { v with bank := (reply st data u).bank, outb := (reply st data u).outb })
      heffect.frame

/-- A command leaves the reply as it is, or composes one whose deadline is a second away (R311). -/
theorem Answered.outb {s u : State} (h : Answered s u) : u.outb = s.outb ∨ u.outb.deadline = s.now + 1000 := by
  cases h with
  | silent => exact .inl rfl
  | replied st heffect =>
    rw [reply_outb, heffect.frame]
    exact .inr rfl

/-- A queued frame is answered and the assembler cleared (R250, R251). -/
theorem slowDispatch_of_queued {s : State} (h : s.inb.state = .queuedSlow) :
    ∃ u, Answered s u ∧ slowDispatch s = clearInbound u := by
  rcases slowDispatch_cases s with ⟨hno, -⟩ | ⟨-, ⟨-, e⟩ | ⟨-, -, e⟩ | ⟨-, -, e⟩ | ⟨hfits, -, -, e⟩⟩
  · exact absurd h hno
  · exact ⟨_, answered_reply_nil .badlen s, e⟩
  · exact ⟨_, answered_reply_nil .crc s, e⟩
  · exact ⟨_, answered_reply_nil .unkcmd s, e⟩
  · exact ⟨_, execCmd_answered hfits, e⟩

/-! ## The main loop is fair (R84) -/

/-- How many of the main loop's four steps are enabled. -/
def pendingSteps (s : State) : Nat :=
  (decide (s.inb.state = .queuedSlow)).toNat + (syncEnabled s).toNat + (inTimeoutEnabled s).toNat +
    (outTimeoutEnabled s).toNat

theorem pendingSteps_le_four (s : State) : pendingSteps s ≤ 4 := by
  have hq := Bool.toNat_le (decide (s.inb.state = .queuedSlow))
  have hs := Bool.toNat_le (syncEnabled s)
  have hi := Bool.toNat_le (inTimeoutEnabled s)
  have ho := Bool.toNat_le (outTimeoutEnabled s)
  unfold pendingSteps
  omega

theorem outTimeoutEnabled_iff (s : State) :
    outTimeoutEnabled s = true ↔ s.outb.active = true ∧ s.outb.deadline < s.now := by
  simp [outTimeoutEnabled, hasElapsed]

theorem mainLoopAtRest_iff (s : State) : MainLoopAtRest s ↔ pendingSteps s = 0 := by
  simp only [MainLoopAtRest, ← syncEnabled_iff, ← inTimeoutEnabled_iff, ← outTimeoutEnabled_iff, pendingSteps,
    Nat.add_eq_zero_iff, Bool.toNat_eq_zero, decide_eq_false_iff_not, Bool.not_eq_true, and_assoc, ne_eq]

/-- A frame is dispatched, and no other step of the main loop becomes enabled: a new reply has its deadline ahead. -/
theorem pendingSteps_slowDispatch {s : State} (h : s.inb.state = .queuedSlow) :
    pendingSteps (slowDispatch s) < pendingSteps s := by
  obtain ⟨u, hanswered, e⟩ := slowDispatch_of_queued h
  have hsync : syncEnabled (clearInbound u) = syncEnabled s := by rw [hanswered.frame]; rfl
  have hin : inTimeoutEnabled (clearInbound u) = false := rfl
  have hout : (outTimeoutEnabled (clearInbound u)).toNat ≤ (outTimeoutEnabled s).toNat := by
    have hnow : u.now = s.now := by rw [hanswered.frame]
    refine Bool.toNat_le_toNat fun hlate => ?_
    obtain ⟨hactive, hlate⟩ := (outTimeoutEnabled_iff _).mp hlate
    rw [clearInbound_outb] at hactive hlate
    rw [clearInbound_now, hnow] at hlate
    rcases hanswered.outb with hold | hnew
    · rw [hold] at hactive hlate
      exact (outTimeoutEnabled_iff s).mpr ⟨hactive, hlate⟩
    · omega
  simp only [pendingSteps, e, hsync, hin, h, clearInbound_inb, decide_true, reduceCtorEq, decide_false,
    Bool.toNat_true, Bool.toNat_false]
  omega

theorem pendingSteps_syncToHw {s : State} (h : syncEnabled s = true) : pendingSteps (syncToHw s) < pendingSteps s := by
  have hsync : syncEnabled (syncToHw s) = false := by rw [syncToHw_of_enabled h]; rfl
  have hinb : (syncToHw s).inb = s.inb := by rw [syncToHw_of_enabled h, syncCommit_eq]; rfl
  have hin : inTimeoutEnabled (syncToHw s) = inTimeoutEnabled s := by
    rw [syncToHw_of_enabled h, syncCommit_eq]; rfl
  have hout : outTimeoutEnabled (syncToHw s) = outTimeoutEnabled s := by
    rw [syncToHw_of_enabled h, syncCommit_eq]; rfl
  simp only [pendingSteps, hsync, hinb, hin, hout, h, Bool.toNat_true, Bool.toNat_false]
  omega

theorem pendingSteps_inTimeout {s : State} (h : inTimeoutEnabled s = true) :
    pendingSteps (inTimeout s) < pendingSteps s := by
  have hsync : syncEnabled (inTimeout s) = syncEnabled s := by rw [inTimeout_of_enabled h]; rfl
  have hstate : (inTimeout s).inb.state = .idle := by rw [inTimeout_of_enabled h]
  have hin : inTimeoutEnabled (inTimeout s) = false := by rw [inTimeout_of_enabled h]; rfl
  have hout : outTimeoutEnabled (inTimeout s) = outTimeoutEnabled s := by rw [inTimeout_of_enabled h]; rfl
  simp only [pendingSteps, hsync, hstate, hin, hout, h, reduceCtorEq, decide_false, Bool.toNat_true, Bool.toNat_false]
  omega

theorem pendingSteps_outTimeout {s : State} (h : outTimeoutEnabled s = true) :
    pendingSteps (outTimeout s) < pendingSteps s := by
  have e : outTimeout s = outFinish s := if_pos h
  have hsync : syncEnabled (outFinish s) = syncEnabled s := rfl
  have hin : inTimeoutEnabled (outFinish s) = inTimeoutEnabled s := rfl
  have hout : outTimeoutEnabled (outFinish s) = false := rfl
  simp only [pendingSteps, e, hsync, outFinish_inb, hin, hout, h, Bool.toNat_true, Bool.toNat_false]
  omega

/-- A step of the main loop does one of the steps that are enabled and enables none. -/
theorem pendingSteps_mainLoop (s : State) : pendingSteps (mainLoop s) ≤ pendingSteps s - 1 := by
  rcases mainLoop_cases s with ⟨hq, h⟩ | ⟨-, hs, h⟩ | ⟨-, -, hi, h⟩ | ⟨-, -, -, ho, h⟩ | ⟨hq, hs, hi, ho, h⟩ <;> rw [h]
  · exact Nat.le_sub_one_of_lt (pendingSteps_slowDispatch hq)
  · exact Nat.le_sub_one_of_lt (pendingSteps_syncToHw hs)
  · exact Nat.le_sub_one_of_lt (pendingSteps_inTimeout hi)
  · exact Nat.le_sub_one_of_lt (pendingSteps_outTimeout ho)
  · simp [pendingSteps, hq, hs, hi, ho]

/-- With none of its steps enabled the main loop does nothing. -/
theorem mainLoop_of_pendingSteps_eq_zero {s : State} (h : pendingSteps s = 0) : mainLoop s = s := by
  simp only [pendingSteps, Nat.add_eq_zero_iff, Bool.toNat_eq_zero, decide_eq_false_iff_not, and_assoc] at h
  obtain ⟨hq, hs, hi, ho⟩ := h
  simp [mainLoop, hq, hs, hi, ho]

/-- With no step listed and the MCU running, each step of the machine is one of the main loop's. -/
theorem run_mainLoop (k : Nat) {s : State} (hempty : s.events = []) :
    ∃ t, Host.Core.run core k s = .next t ∧ t.events = [] ∧ t.handlersEnabled = s.handlersEnabled ∧
      (s.handlersEnabled = true → pendingSteps t ≤ pendingSteps s - k) := by
  induction k generalizing s with
  | zero => exact ⟨s, rfl, hempty, rfl, fun _ => Nat.le_refl _⟩
  | succ k ih =>
    have hframe := onMcu_mcuFrame (mainLoop_mcuFrame s)
    obtain ⟨t, ht, htempty, hrun, hpending⟩ := ih (hframe.events.trans hempty)
    refine ⟨t, (run_succ (nextStep_nil hempty) k).trans ht, htempty, hrun.trans hframe.handlersEnabled,
      fun henabled => ?_⟩
    have hrest := hpending (hframe.handlersEnabled.trans henabled)
    have hone := pendingSteps_mainLoop s
    rw [onMcu, if_pos henabled] at hrest
    omega

/-- Settles O7: every step answers (`step_next`); the listed steps are taken one by one (`run_listed`), and after them
each step of the main loop leaves one fewer of its four enabled (`pendingSteps_mainLoop`). -/
theorem noStepStops : Obligations.NoStepStops := by
  refine ⟨step_next, fun s => ?_⟩
  obtain ⟨u, hu, huempty⟩ := run_listed (s := s) rfl
  obtain ⟨t, ht, hempty, hrun, hpending⟩ := run_mainLoop 4 huempty
  have hzero (henabled : t.handlersEnabled = true) : pendingSteps t = 0 := by
    have hfew := hpending (hrun.symm.trans henabled)
    have hfour := pendingSteps_le_four u
    omega
  refine ⟨s.events.length + 4, t, (run_add hu 4).trans ht, Nat.le_refl _, hempty,
    fun henabled => (mainLoopAtRest_iff t).mpr (hzero henabled), (nextStep_nil hempty).trans ?_⟩
  rcases onMcu_cases mainLoop t with ⟨henabled, h⟩ | ⟨-, h⟩ <;> rw [h]
  rw [mainLoop_of_pendingSteps_eq_zero (hzero henabled)]

/-! ## A quiet block comes to rest (R374, R252, R314) -/

/-- No frame is queued, and before time `n` the deadlines of both engines will have passed. -/
structure TimeoutsDueBy (n : Nat) (s : State) : Prop where
  notQueued : s.inb.state ≠ .queuedSlow
  inDeadline : s.inb.deadline < n
  outDeadline : s.outb.deadline < n

/-- After a dispatch no frame is queued, and a reply that it composed waits a second at most (R251, R311). -/
theorem slowDispatch_timeoutsDueBy {s : State} {n : Nat} (hsecond : s.now + 1000 < n) (hin : s.inb.deadline < n)
    (hout : s.outb.deadline < n) : TimeoutsDueBy n (slowDispatch s) := by
  by_cases hq : s.inb.state = .queuedSlow
  · obtain ⟨u, hanswered, e⟩ := slowDispatch_of_queued hq
    rw [e]
    refine ⟨nofun, ?_, ?_⟩
    · rw [clearInbound_inb, hanswered.frame]
      exact hin
    · rw [clearInbound_outb]
      rcases hanswered.outb with hold | hnew
      · rwa [hold]
      · rwa [hnew]
  · have e : slowDispatch s = s := if_neg hq
    rw [e]
    exact ⟨hq, hin, hout⟩

/-- A frame that is not queued is either none or stuck, and a stuck one is discarded (R252). -/
theorem inTimeout_of_due {s : State} (h : TimeoutsDueBy s.now s) :
    (inTimeout s).inb.state = .idle ∧ (inTimeout s).outb = s.outb := by
  cases hi : inTimeoutEnabled s with
  | true =>
    rw [inTimeout_of_enabled hi]
    exact ⟨rfl, rfl⟩
  | false =>
    rw [inTimeout_of_disabled hi]
    have hstate : ¬ (s.inb.state = .accumulating ∨ s.inb.state = .headerKnown) := fun hbusy =>
      Bool.eq_false_iff.mp hi ((inTimeoutEnabled_iff s).mpr ⟨hbusy, h.inDeadline⟩)
    refine ⟨?_, rfl⟩
    cases hs : s.inb.state with
    | idle => rfl
    | accumulating => exact absurd (.inl hs) hstate
    | headerKnown => exact absurd (.inr hs) hstate
    | queuedSlow => exact absurd hs h.notQueued

theorem outTimeout_of_due {s : State} (h : s.outb.deadline < s.now) :
    (outTimeout s).outb.active = false ∧ (outTimeout s).inb = s.inb := by
  rcases outTimeout_cases s with ⟨-, -, e⟩ | ⟨hno, e⟩ <;> rw [e]
  · exact ⟨rfl, rfl⟩
  · exact ⟨Bool.eq_false_iff.mpr fun hactive => hno ⟨hactive, h⟩, rfl⟩

/-- A dispatch, and then a tick past both deadlines and of more than a second, leave both timeouts due. -/
theorem run_dispatch_tick {s : State} {ms us : Nat} {rest : List Event}
    (hevents : s.events = .slowDispatch :: .tick ms us :: rest) (hrun : s.handlersEnabled = true) (hms : 1000 < ms)
    (hus : 0 < us) (hin : s.inb.deadline < s.now + ms) (hout : s.outb.deadline < s.now + ms) :
    ∃ t, Host.Core.run core 2 s = .next t ∧ t.events = rest ∧ t.handlersEnabled = true ∧ TimeoutsDueBy t.now t := by
  have hdispatch := step_onMcu hevents rfl hrun
  have hframe := (slowDispatch_handlerFrame { s with events := .tick ms us :: rest }).mcuFrame
  have hdue : TimeoutsDueBy (s.now + ms) (slowDispatch { s with events := .tick ms us :: rest }) :=
    slowDispatch_timeoutsDueBy (Nat.add_lt_add_left hms s.now) hin hout
  generalize slowDispatch { s with events := .tick ms us :: rest } = a at hdispatch hframe hdue
  have htick : step a = .next { a with
      events := rest, now := a.now + ms, uptimeUs := a.uptimeUs + BitVec.ofNat 64 us } :=
    (nextStep_cons hframe.events).trans (congrArg _ (if_pos ⟨Nat.zero_lt_of_lt hms, hus⟩))
  obtain ⟨hqueued, hindue, houtdue⟩ := hframe.now ▸ hdue
  exact ⟨_, (run_succ hdispatch 1).trans (run_succ htick 0), rfl, hframe.handlersEnabled.trans hrun,
    hqueued, hindue, houtdue⟩

/-- The two timeouts, when they are due, leave both engines at rest. -/
theorem run_timeouts {s : State} {rest : List Event} (hevents : s.events = .inTimeout :: .outTimeout :: rest)
    (hrun : s.handlersEnabled = true) (hdue : TimeoutsDueBy s.now s) :
    ∃ t, Host.Core.run core 2 s = .next t ∧ AtRest t := by
  have hfirst := step_onMcu hevents rfl hrun
  have hframe := inTimeout_mcuFrame { s with events := .outTimeout :: rest }
  have hidle := inTimeout_of_due (s := { s with events := .outTimeout :: rest })
    ⟨hdue.notQueued, hdue.inDeadline, hdue.outDeadline⟩
  generalize inTimeout { s with events := .outTimeout :: rest } = a at hfirst hframe hidle
  obtain ⟨hidle, houtb⟩ := hidle
  have hsecond := step_onMcu hframe.events rfl (hframe.handlersEnabled.trans hrun)
  have hlate : a.outb.deadline < a.now := by
    rw [houtb, hframe.now]
    exact hdue.outDeadline
  obtain ⟨hsilent, hinb⟩ := outTimeout_of_due (s := { a with events := rest }) hlate
  refine ⟨_, (run_succ hfirst 1).trans (run_succ hsecond 0), ?_, hsilent⟩
  rw [hinb]
  exact hidle

/-- Settles O8: after the dispatch and the tick each timeout finds its engine idle or stuck. -/
theorem quietBlockComesToRest : Obligations.QuietBlockComesToRest := by
  intro s ms us rest hevents hrun hms hus hin hout
  obtain ⟨u, hu, huevents, hurun, hdue⟩ := run_dispatch_tick hevents hrun hms hus hin hout
  obtain ⟨t, ht, hrest⟩ := run_timeouts huevents hurun hdue
  exact ⟨t, (run_add hu 2).trans ht, hrest⟩

end Sys2Proof.Machine
end

/-! # Reset and BOOT (spec/70_reset_and_hazards.md, R410 to R414) -/

section
namespace Sys2Proof.Machine

/-! ## Before BOOT has ended (R414) -/

/-- Settles O11: with the handlers stopped the cycle is the unserved one, which writes the lines alone. -/
theorem noCycleIsServedBeforeBoot : Obligations.NoCycleIsServedBeforeBoot := by
  intro s c rest hevents hstopped
  have hcycle : busCycle c { s with events := rest } = .next (unservedCycle c { s with events := rest }) := by
    rcases busCycle_cases c { s with events := rest } with ⟨hrun, -⟩ | ⟨-, hlost⟩
    · exact absurd (hrun.symm.trans hstopped) (by decide)
    · exact hlost
  exact ⟨_, (nextStep_cons hevents).trans hcycle, rfl, rfl, rfl⟩

/-! ## The step of BOOT, and its fields beyond the bank (R411) -/

/-- The step of BOOT from a stopped state (R410, R411). -/
theorem step_boot {s : State} {v : BootValues} {rest : List Event} (hevents : s.events = .boot v :: rest)
    (hstopped : s.handlersEnabled = false) :
    step s = .next (bootSequence (loadBootValues v { s with events := rest })) :=
  (nextStep_cons hevents).trans (congrArg Host.Outcome.next (if_pos hstopped))

@[simp] theorem bootSequence_events (s : State) : (bootSequence s).events = s.events := by
  simp [bootSequence, bootProtocol, bootBank]

@[simp] theorem bootSequence_handlersEnabled (s : State) : (bootSequence s).handlersEnabled = true := rfl

@[simp] theorem bootSequence_timeDirty (s : State) : (bootSequence s).timeDirty = false := rfl

@[simp] theorem bootSequence_ramDirty (s : State) : (bootSequence s).ramDirty = false := rfl

@[simp] theorem bootSequence_uptimeUs (s : State) : (bootSequence s).uptimeUs = 0#64 := rfl

@[simp] theorem bootSequence_diag (s : State) : (bootSequence s).diag = [] := rfl

@[simp] theorem bootSequence_nv (s : State) : (bootSequence s).nv = s.nv := by
  simp [bootSequence, bootProtocol, bootBank]

@[simp] theorem bootSequence_now (s : State) : (bootSequence s).now = s.now := by
  simp [bootSequence, bootProtocol, bootBank]

@[simp] theorem bootSequence_curBank (s : State) : (bootSequence s).curBank = 0#2 := by
  rw [bootSequence, bootProtocol_curBank, (maskedStores_boot s).curBank, setMode_curBank]
  rfl

@[simp] theorem bootSequence_timerEnabled (s : State) : (bootSequence s).timerEnabled = true := by
  rw [bootSequence, bootProtocol_timerEnabled, (maskedStores_boot s).timerEnabled, setMode_timerEnabled]
  rfl

/-! ## The digits of BOOT's bank (R210, R411) -/

/-- Each of the fourteen cells takes its digit through the mask, whatever the date. -/
theorem cell_digitsOfHw_masked {s : State} {c : BankNo × Nibble × Nat} (hc : c ∈ digitCells s.hw.time) :
    (digitsOfHw s).cell c.1 c.2.1 = BitVec.ofNat 4 c.2.2 &&& wmask c.1 c.2.1 :=
  cell_foldl_storeMasked_mem digitCell (fun c => BitVec.ofNat 4 c.2.2) (nodup_digitCells _) hc s

/-- The digits of bank 0 depend on the hardware clock alone. -/
theorem cell_digitsOfHw_congr {s t : State} (htime : t.hw.time = s.hw.time) {a : Nibble} (ha : a.toNat ≤ 0xC) :
    (digitsOfHw t).cell 0#2 a = (digitsOfHw s).cell 0#2 a := by
  have hmem := (mem_digitCells_iff s.hw.time 0#2 a).mpr (.inl ⟨rfl, ha⟩)
  obtain ⟨⟨b', a', n⟩, hc, heq⟩ := List.mem_map.mp hmem
  cases heq
  exact (cell_digitsOfHw_masked (htime ▸ hc)).trans (cell_digitsOfHw_masked hc).symm

theorem cell_bootSequence (s : State) (b : BankNo) (a : Nibble) :
    (bootSequence s).cell b a = (digitsOfHw (nvRestore (bootBank s))).cell b a := by
  rw [bootSequence, cell_bootProtocol]

theorem nvRestore_bootBank_time (s : State) : (nvRestore (bootBank s)).hw.time = s.hw.time := by
  simp [bootBank]

theorem cell_bootSequence_digit (s : State) {a : Nibble} (ha : a.toNat ≤ 0xC) :
    (bootSequence s).cell 0#2 a = (digitsOfHw s).cell 0#2 a := by
  rw [cell_bootSequence]
  exact cell_digitsOfHw_congr (nvRestore_bootBank_time s) ha

/-- `LEAP` needs no legal date: its mask keeps the whole of `year mod 4`. -/
theorem cell_bootSequence_leap (s : State) : ((bootSequence s).cell 1#2 0xB#4).toNat = s.hw.time.year % 4 := by
  have hmask : wmask 1#2 0xB#4 = 0x3#4 := by decide
  have hleap : (1#2, 0xB#4, s.hw.time.year % 4) ∈ digitCells (nvRestore (bootBank s)).hw.time := by
    rw [nvRestore_bootBank_time]
    simp [digitCells, leapCounter_eq]
  have hlt := Nat.mod_lt s.hw.time.year (by decide : 0 < 4)
  rw [cell_bootSequence, cell_digitsOfHw_masked hleap, hmask]
  interval_cases s.hw.time.year % 4 <;> rfl

/-! ## The cells that no digit reaches (R411, R412) -/

theorem cell_bootSequence_mode (s : State) (b : BankNo) : (bootSequence s).cell b modeAddr = 0x8#4 := by
  rw [cell_bootSequence, (maskedStores_boot s).cell_mode, cell_setMode, if_pos rfl]

theorem MasksHold.reset_eq_zero {s : State} (hs : MasksHold s) (b : BankNo) : s.cell b 0xF#4 = 0#4 :=
  have ⟨hch, hmask⟩ := wmask_eq_zero (b := b) (.inr (.inl rfl))
  hs.cell_eq_zero hch hmask

/-- The alarm, setting and RAM cells that a backup brings back and no digit overwrites (R412). -/
abbrev BackedUpCell (b : BankNo) (a : Nibble) : Prop :=
  (b = 1#2 ∧ 2 ≤ a.toNat ∧ a ≠ 0xB#4 ∨ 2 ≤ b.toNat) ∧ a.toNat ≤ 0xC

theorem BackedUpCell.restored {b : BankNo} {a : Nibble} (h : BackedUpCell b a) :
    b ≠ 0#2 ∧ a.toNat ≤ 0xC ∧ ¬ (b = 1#2 ∧ a.toNat ≤ 1) := by
  revert b a
  decide

theorem BackedUpCell.not_digit {b : BankNo} {a : Nibble} (h : BackedUpCell b a) :
    ¬ (b = 0#2 ∧ a.toNat ≤ 0xC ∨ b = 1#2 ∧ a = 0xB#4) := by
  revert b a
  decide

theorem BackedUpCell.ne_modeAddr {b : BankNo} {a : Nibble} (h : BackedUpCell b a) : a ≠ modeAddr := by
  revert b a
  decide

/-- The model's test of the cookie (R215). -/
theorem cookie_iff (nv : Vector Word32 7) :
    nv.toList.getD 0 0#32 = nvCookie ↔ nv.toList.head? = some 0x52503543#32 := by
  obtain ⟨w, words, h⟩ := List.exists_cons_of_length_pos (l := nv.toList) (by simp)
  simp [h, nvCookie]

/-- The bank of BOOT's first lines (R411). -/
theorem cell_bootBank (s : State) (b : BankNo) (a : Nibble) :
    (bootBank s).cell b a = if b = 1#2 ∧ a = 0xA#4 then 1#4 else if a = modeAddr then 0x8#4 else 0#4 := by
  rw [bootBank, State.cell_setCell, cell_setMode, cell_replicate_zero]

/-- With the cookie such a cell comes back through its mask (R215, R412). -/
theorem cell_bootSequence_backup {s : State} (hcookie : s.nv.toList.head? = some 0x52503543#32) {b : BankNo}
    {a : Nibble} (h : BackedUpCell b a) : (bootSequence s).cell b a = backupRead s.nv b a &&& wmask b a := by
  have hnv : (bootBank s).nv = s.nv := rfl
  rw [cell_bootSequence, cell_digitsOfHw_other h.not_digit,
    cell_nvRestore (by rw [hnv]; exact (cookie_iff _).mpr hcookie), if_pos h.restored, hnv]

/-- Without the cookie such a cell keeps what BOOT's first lines wrote (R215, R412). -/
theorem cell_bootSequence_noBackup {s : State} (hcookie : s.nv.toList.head? ≠ some 0x52503543#32) {b : BankNo}
    {a : Nibble} (h : BackedUpCell b a) :
    (bootSequence s).cell b a = if b = 1#2 ∧ a = 0xA#4 then 1#4 else 0#4 := by
  have hskip : nvRestore (bootBank s) = bootBank s := if_neg ((cookie_iff s.nv).not.mpr hcookie)
  rw [cell_bootSequence, cell_digitsOfHw_other h.not_digit, hskip, cell_bootBank, if_neg h.ne_modeAddr]

/-! ## The reset table (R56) -/

/-- Settles O54, by the lemmas about each field and each cell of `bootSequence`; the values of the environment that BOOT
starts from touch neither clock nor backup. -/
theorem bootLeavesTheResetTable : Obligations.BootLeavesTheResetTable := by
  intro s v rest hevents hstopped
  let u := loadBootValues v { s with events := rest }
  have hmasks := masksHold_bootSequence u
  refine ⟨bootSequence u, step_boot hevents hstopped, bootSequence_events u, bootSequence_handlersEnabled u,
    bootSequence_params u, (congrArg HwClock.time (bootSequence_hw u) :), congrArg HwClock.wp (bootSequence_hw u),
    bootSequence_nv u, bootSequence_lastSec u, bootSequence_now u, bootSequence_curBank u, bootSequence_timerEnabled u,
    bootSequence_timeDirty u, bootSequence_ramDirty u,
    congrArg Inbound.hi (bootSequence_inb u), congrArg Inbound.pos (bootSequence_inb u),
    congrArg Inbound.state (bootSequence_inb u), congrArg Outbound.active (bootSequence_outb u),
    congrArg Outbound.pos (bootSequence_outb u), congrArg Outbound.len (bootSequence_outb u),
    bootSequence_uptimeUs u, bootSequence_consOut u, bootSequence_consIn u, bootSequence_diag u, ?digits,
    cell_bootSequence_leap u, cell_channel_bootSequence u isChannel_hi, cell_channel_bootSequence u isChannel_lo,
    ?modeTestReset, hmasks, ?backup, ?noBackup⟩
  case digits =>
    intro a ha
    exact (cell_bootSequence_digit u ha).trans (cell_digitsOfHw_congr rfl ha)
  case modeTestReset =>
    exact fun b => ⟨cell_bootSequence_mode u b, hmasks.test_eq_zero b, hmasks.reset_eq_zero b⟩
  case backup =>
    intro hcookie b a hcell ha
    exact cell_bootSequence_backup (s := u) hcookie ⟨hcell, ha⟩
  case noBackup =>
    refine fun hcookie => ⟨?h24, fun b a hcell ha => ?others⟩
    case h24 => exact cell_bootSequence_noBackup (s := u) hcookie (by decide)
    case others =>
      have hne : ¬ (b = 1#2 ∧ a = 0xA#4) := by
        rintro ⟨rfl, rfl⟩
        exact absurd hcell (by decide)
      have hbacked : BackedUpCell b a := ⟨hcell.imp_left fun ⟨hb, hlow, _, hleap⟩ => ⟨hb, hlow, hleap⟩, ha⟩
      exact (cell_bootSequence_noBackup (s := u) hcookie hbacked).trans (if_neg hne)

end Sys2Proof.Machine
end
